-- ==== Sys2Proof/Word.lean ====
section
/-! DEFINITION. The widths of DCSV's data (R7, R8, R60): words, halfwords, bytes, window addresses and byte strobes. -/

namespace Sys2Proof

/-- A 32-bit bus word, register or command word (R7). -/
abbrev Word := BitVec 32

/-- A 16-bit value: a CRC-16 or a year (R31, R33). -/
abbrev Half := BitVec 16

/-- One byte of the buffer (R37). -/
abbrev Byte := BitVec 8

/-- A 17-bit byte address within DCSV's window, 0x00000 to 0x1FFFF (R60). -/
abbrev WinAddr := BitVec 17

/-- The four byte-lane strobes of a host write; bit k enables lane k (R60). -/
abbrev Strobe := BitVec 4

end Sys2Proof
end

