-- ==== Sys2Proof/Config.lean ====
section
/-! DEFINITION. The parameters a model of DCSV takes (R7, R72) and the one free value: the byte the buffer draws at a reset (R241). -/

namespace Sys2Proof

/-- The parameters of R7, and the platform's window base of R72. Fixed for the machine: no step changes them
(log 1). The defaults of the first three are R7's; the default base 0 is a DESIGN CHOICE (log 1), and nothing
DCSV does depends on it. -/
structure Config where
  /-- `BUF_SIZE`: bytes in the local buffer (R7, R37). -/
  bufSize : Nat := 65536
  /-- `YEAR_BASE`: added to the two-digit year (R7, R174). -/
  yearBase : Nat := 2000
  /-- `TIME_RANGE_CHECK`: whether BCD_DECODE rejects an hour, minute or second out of range (R7, R177). -/
  timeRangeCheck : Bool := true
  /-- `DCSV_BASE`: where the window sits in the system's address space (R72). -/
  dcsvBase : Nat := 0
  deriving DecidableEq, Repr

/-- The byte that offset `offset` of the buffer draws at reset number `draw`: an unspecified value (R37, R241,
U1). FREE VALUE: no body is given, so no proof can see it, and a claim holds whatever it is (log 3). -/
opaque Config.bufferDraw (draw offset : Nat) : Byte

/-- The window byte address of system address `x`, if `x` lies in DCSV's window (R72: `X − DCSV_BASE`). An
address outside the window does not select DCSV (log 17). -/
def Config.windowAddr (cfg : Config) (x : Nat) : Option WinAddr :=
  if cfg.dcsvBase ≤ x ∧ x < cfg.dcsvBase + 0x20000 then some (BitVec.ofNat 17 (x - cfg.dcsvBase)) else none

end Sys2Proof
end

