-- ==== Sys2Proof/Syntax.lean ====
section
/-! DEFINITION. DCSV's instructions: the six commands of the opcode map (R92), one constructor a row of
`spec/opcode_table.json`. A command word has no operand field (R90, R91), so no constructor has an argument. -/

namespace Sys2Proof

/-- The six legal commands (R92). Every other command word is ILLEGAL (R93) and is no `Instr`. -/
inductive Instr where
  /-- CRC-32 of a buffer range (R132). -/
  | crc32Calc
  /-- CRC-32 of a buffer range, compared with the stored value after it (R133). -/
  | crc32Check
  /-- CRC-16 of a buffer range (R153). -/
  | crc16Calc
  /-- CRC-16 of a buffer range, compared with the stored value after it (R154). -/
  | crc16Check
  /-- Decode a 7-byte BCD timestamp (R178). -/
  | bcdDecode
  /-- Strip bit 7 of a range of bytes (R201). -/
  | pbDecode
  deriving DecidableEq, Repr

end Sys2Proof
end

