-- ==== Sys2Proof/WellFormed.lean ====
section
/-! DEFINITION. What is checked before a rule of the spec applies: the parameters' legal ranges (R7, U6) and the
legality of a command word (R92). -/

namespace Sys2Proof

/-- The legal ranges of the parameters (R7): BUF_SIZE a multiple of 4 from 64 to 65536, YEAR_BASE at most
65436. Outside them the rules are not written (U6). -/
def Config.wf (cfg : Config) : Bool :=
  cfg.bufSize % 4 == 0 && decide (64 ≤ cfg.bufSize) && decide (cfg.bufSize ≤ 65536)
    && decide (cfg.yearBase ≤ 65436)

/-- A command word is legal exactly when RSVD = 0 and OPCODE is one of 0x01 to 0x06 (R92). -/
def legalWord (c : Word) : Bool :=
  c.extractLsb' 8 24 == 0#24 && decide (1 ≤ (c.extractLsb' 0 8).toNat) && decide ((c.extractLsb' 0 8).toNat ≤ 6)

/-- An instruction carries no operand, so there is nothing to check in one: every `Instr` is well formed (R90,
R91). -/
def Instr.wf (_ : Instr) : Bool := true

end Sys2Proof
end

