-- ==== Sys2Proof/Decode.lean ====
section
/-! DEFINITION. The decoder of a command word (R93), its encoder (R92) and the host's entry `decodeTableWord`. -/

namespace Sys2Proof

/-- Why a command word is ILLEGAL (R94). -/
inductive IllegalWord where
  /-- RSVD, bits [31:8], is not 0 (R90, R94). -/
  | reservedBitsSet
  /-- OPCODE is 0x00 or 0x07 to 0xFF (R94). -/
  | unknownOpcode
  deriving DecidableEq, Repr

/-- OPCODE, bits [7:0] of a command word (R90). -/
def opcodeOf (c : Word) : Byte := c.extractLsb' 0 8

/-- RSVD, bits [31:8] of a command word (R90). -/
def rsvdOf (c : Word) : BitVec 24 := c.extractLsb' 8 24

/-- The decode function, total on every 32-bit word (R93). -/
def decode (c : Word) : Except IllegalWord Instr :=
  if rsvdOf c ≠ 0#24 then .error .reservedBitsSet
  else if opcodeOf c = 0x01#8 then .ok .crc32Calc
  else if opcodeOf c = 0x02#8 then .ok .crc32Check
  else if opcodeOf c = 0x03#8 then .ok .crc16Calc
  else if opcodeOf c = 0x04#8 then .ok .crc16Check
  else if opcodeOf c = 0x05#8 then .ok .bcdDecode
  else if opcodeOf c = 0x06#8 then .ok .pbDecode
  else .error .unknownOpcode

/-- OPCODE of each command (R92). -/
def opcode : Instr → Byte
  | .crc32Calc => 0x01#8
  | .crc32Check => 0x02#8
  | .crc16Calc => 0x03#8
  | .crc16Check => 0x04#8
  | .bcdDecode => 0x05#8
  | .pbDecode => 0x06#8

/-- The command word of an instruction: RSVD zero above its OPCODE (R90, R92). -/
def encode (i : Instr) : Word := 0#24 ++ opcode i

/-- The host's entry: what the decoder reads from an instruction whose bits are `w`, of which the table gives
`nbits`. A command is exactly one 32-bit word (R95), so the bits above `nbits` are 0, and more than 32 bits is
no command (log 16). -/
def decodeTableWord (nbits w : Nat) : Option Instr :=
  if 32 < nbits then none
  else
    match decode (BitVec.ofNat 32 (w % 2 ^ nbits)) with
    | .ok i => some i
    | .error _ => none

end Sys2Proof
end

