-- ==== Sys2Proof/Machine/State.lean ====
section
/-! DEFINITION. The whole state of DCSV (R43) as plain data, the parameters it is built with, and the environment that
drives it: the host's program, the schedule and the values the host has read. `State.reset` is the state after
power-on (R240). -/

namespace Sys2Proof.Machine

/-- The completion codes of R210: CODE 0, 1, 2, 3. Codes 4 to 15 are never produced (R23, U5) and no state of
the model holds one (log 10). -/
inductive CompletionCode where
  /-- 0: the command ran to the end. -/
  | ok
  /-- 1: the command word is illegal. -/
  | illegal
  /-- 2: the operand range exceeds the buffer. -/
  | truncated
  /-- 3: bad BCD digit, day of year or time. -/
  | invalidBcd
  deriving DecidableEq, Repr

/-- The fields of STATUS (R23). -/
structure Status where
  busy : Bool := false
  done : Bool := false
  err : Bool := false
  overrun : Bool := false
  code : CompletionCode := .ok
  crc32Ok : Bool := false
  crc16Ok : Bool := false
  bcdOk : Bool := false
  bcdBadDigit : Bool := false
  bcdBadDoy : Bool := false
  bcdBadTime : Bool := false
  deriving DecidableEq, Repr

/-- The fields of TS_YEAR, TS_DATE, TS_HMS and TS_MS (R33 to R36). -/
structure Timestamp where
  year : Half := 0#16
  yy : Byte := 0#8
  leap : Bool := false
  doy : Half := 0#16
  month : Byte := 0#8
  day : Byte := 0#8
  hour : Byte := 0#8
  minute : Byte := 0#8
  second : Byte := 0#8
  ms : Half := 0#16
  deriving DecidableEq, Repr

/-- The content of PENDING (R38): an accepted command word with ADDR, LEN and DST as they stood at acceptance. -/
structure Pending where
  word : Word
  addr : Word
  len : Word
  dst : Word
  deriving DecidableEq, Repr

/-- One line of a host program (R96). -/
inductive HostOp where
  /-- `wr OFF, D, S`: `HostWrite(OFF, D, S)`. -/
  | wr (off : WinAddr) (d : Word) (strb : Strobe)
  /-- `rd OFF`: `HostRead(OFF)`. -/
  | rd (off : WinAddr)
  /-- `poll OFF, MASK, VAL`: `rd OFF` until `(value & MASK) = VAL`. -/
  | poll (off : WinAddr) (mask val : Word)
  /-- Wait until the `irq` level is 1, the second way of R250 to observe a completion (log 13). -/
  | irqWait
  deriving DecidableEq, Repr

/-- The three sources of steps (R111). -/
inductive Agent where
  | host
  | engine
  | reset
  deriving DecidableEq, Repr

/-- A value the host has read: the window address it gave and the word that came back (R60). -/
structure ReadBack where
  off : WinAddr
  value : Word
  deriving DecidableEq, Repr

/-- The complete state (R43), with the model's own fields `cfg`, `draws`, `program`, `turns` and `reads`. -/
structure State where
  /-- The parameters (R7, R72); no step changes them (log 1). -/
  cfg : Config := {}
  /-- CTRL.IE (R22). -/
  ie : Bool := false
  /-- STATUS (R23). -/
  status : Status := {}
  /-- LAST_CMD, what a read of CMD returns (R25). -/
  lastCmd : Word := 0#32
  /-- ADDR (R26). -/
  addr : Word := 0#32
  /-- LEN (R27). -/
  len : Word := 0#32
  /-- DST (R28). -/
  dst : Word := 0#32
  /-- CRC32_RESULT (R29). -/
  crc32Result : Word := 0#32
  /-- CRC32_STORED (R30). -/
  crc32Stored : Word := 0#32
  /-- CRC16_RESULT, bits [15:0] (R31, R43). -/
  crc16Result : Half := 0#16
  /-- CRC16_STORED, bits [15:0] (R32, R43). -/
  crc16Stored : Half := 0#16
  /-- TS_YEAR, TS_DATE, TS_HMS, TS_MS (R33 to R36). -/
  ts : Timestamp := {}
  /-- The buffer's bytes written since the last reset, by offset (R37, R241; log 3, log 4). -/
  buf : List Host.Cell := []
  /-- The model's own: the number of reset events so far, which names the buffer's free draw (log 3). -/
  draws : Nat := 0
  /-- PENDING (R38). -/
  pending : Option Pending := none
  /-- The model's own: what the host has still to do, next operation first (R96, R111; log 9). -/
  program : List HostOp := []
  /-- The model's own: which agent moves next, first turn first (R74, R75; log 5). -/
  turns : List Agent := []
  /-- The model's own: what the host has read, newest first (R60; log 9). -/
  reads : List ReadBack := []
  deriving DecidableEq, Repr

/-- The reasons a step could stop with a fault. DCSV itself has none (R63, R214, R219). -/
inductive Fault where
  /-- Raised by a command's meaning when PENDING is empty: the engine step is enabled exactly when PENDING is
  non-empty (R38, R112), so there is no step to take. No step of the machine raises it. Safe (log 8). -/
  | engineNotEnabled
  deriving DecidableEq, Repr

/-- The reasons the model has no meaning for a state or an instruction. -/
inductive Refusal where
  /-- Raised by `exec` for an instruction that has no meaning yet. Safe. No arm raises it now. -/
  | notModelled (mnemonic : String)
  /-- Raised by `step` and by every meaning when a parameter is outside its legal range: "refuse" (R7, U6).
  Safe (log 2). -/
  | illegalParameters
  deriving DecidableEq, Repr

/-- The machine right after reset (R240): every register 0, PENDING empty, nothing of the buffer written; the
parameters at R7's defaults (log 1); no host program and no schedule (log 11). -/
def State.reset : State where
  cfg := {}
  ie := false
  status := {}
  lastCmd := 0#32
  addr := 0#32
  len := 0#32
  dst := 0#32
  crc32Result := 0#32
  crc32Stored := 0#32
  crc16Result := 0#16
  crc16Stored := 0#16
  ts := {}
  buf := []
  draws := 0
  pending := none
  program := []
  turns := []
  reads := []

end Sys2Proof.Machine
end

