-- ==== Sys2Proof/Machine/Flags.lean ====
section
/-! DEFINITION. Every flag computation of the spec: the STATUS and CTRL words (R22, R23), what acceptance, completion, a
dropped write and a write-1-to-clear do to STATUS (R110, R113, R116, R66), and the interrupt level (R39, R215). -/

namespace Sys2Proof.Machine

/-- The four bits of STATUS.CODE (R23, R210). -/
def CompletionCode.bits : CompletionCode → BitVec 4
  | .ok => 0#4
  | .illegal => 1#4
  | .truncated => 2#4
  | .invalidBcd => 3#4

/-- The STATUS register as a host reads it; bits [31:14] read 0 (R23). -/
def Status.word (st : Status) : Word :=
  0#18 ++ BitVec.ofBool st.bcdBadTime ++ BitVec.ofBool st.bcdBadDoy ++ BitVec.ofBool st.bcdBadDigit
    ++ BitVec.ofBool st.bcdOk ++ BitVec.ofBool st.crc16Ok ++ BitVec.ofBool st.crc32Ok ++ st.code.bits
    ++ BitVec.ofBool st.overrun ++ BitVec.ofBool st.err ++ BitVec.ofBool st.done ++ BitVec.ofBool st.busy

/-- STATUS at the acceptance of a command: BUSY set, DONE cleared, nothing else (R110). -/
def Status.accept (st : Status) : Status := { st with busy := true, done := false }

/-- STATUS at a completion with `code`; ERR is sticky (R113). -/
def Status.complete (st : Status) (code : CompletionCode) : Status :=
  { st with code := code, err := st.err || code != .ok, done := true, busy := false }

/-- STATUS after a host write was dropped (R116). -/
def Status.drop (st : Status) : Status := { st with overrun := true }

/-- A host write to STATUS whose strobed data is `m`: DONE (bit 1), ERR (bit 2) and OVERRUN (bit 3) are cleared
where `m` holds a 1; every other bit is unchanged (R23, R66). -/
def Status.clear (st : Status) (m : Word) : Status :=
  { st with
    done := st.done && !m.getLsbD 1
    err := st.err && !m.getLsbD 2
    overrun := st.overrun && !m.getLsbD 3 }

/-- The CTRL register as a host reads it; bits [31:1] read 0 (R22). -/
def ctrlWord (ie : Bool) : Word := (BitVec.ofBool ie).setWidth 32

/-- The interrupt output: a level, a function of the state (R39, R215). -/
def State.irq (s : State) : Bool := s.ie && s.status.done

end Sys2Proof.Machine
end

