-- ==== Sys2Proof/Machine/Memory.lean ====
section
/-! DEFINITION. The buffer's written bytes as a list of (offset, byte) cells in one canonical form: offsets strictly
rising and below BUF_SIZE (R37). An unlisted offset has not been written since the last reset (log 4). -/

namespace Sys2Proof.Machine

/-- The byte written at offset `a`, if any was since the last reset. This is the one place that says what an
unlisted offset holds: no written byte (log 4); `State.byteAt` supplies the reset's draw for it (R241). -/
def Memory.written : List Host.Cell → Nat → Option Byte
  | [], _ => none
  | (a', b) :: rest, a => if a = a' then some b else Memory.written rest a

/-- Write one byte, keeping the cells sorted by offset with no repeats. -/
def Memory.write : List Host.Cell → Nat → Byte → List Host.Cell
  | [], a, b => [(a, b)]
  | (a', b') :: rest, a, b =>
    if a < a' then (a, b) :: (a', b') :: rest
    else if a = a' then (a, b) :: rest
    else (a', b') :: Memory.write rest a b

/-- Write consecutive bytes from offset `a` upward. -/
def Memory.writeAll (m : List Host.Cell) (a : Nat) : List Byte → List Host.Cell
  | [] => m
  | b :: bs => Memory.writeAll (Memory.write m a b) (a + 1) bs

/-- Offsets strictly rise from `lo` on and lie below `size`. -/
def Memory.wfFrom (size : Nat) : Nat → List Host.Cell → Bool
  | _, [] => true
  | lo, (a, _) :: rest => decide (lo ≤ a) && decide (a < size) && Memory.wfFrom size (a + 1) rest

/-- The canonical form for a buffer of `size` bytes. -/
def Memory.wf (size : Nat) (m : List Host.Cell) : Bool := Memory.wfFrom size 0 m

end Sys2Proof.Machine
end

