-- ==== Sys2Proof/Machine/Ops.lean ====
section
/-! DEFINITION. The named operations over the buffer and the registers (R10), and the three events every rule is written
against: acceptance (R110), completion (R113, which stands where a processor takes an exception: R214), and reset
(R240). -/

namespace Sys2Proof.Machine

/-- `buf[a]`: the byte last written at offset `a` since the last reset, else that reset's draw (R10, R37,
R241). -/
def State.byteAt (s : State) (a : Nat) : Byte :=
  (Memory.written s.buf a).getD (Config.bufferDraw s.draws a)

/-- `bytes(a, n)`: the list `[buf[a], ..., buf[a+n−1]]` (R10). -/
def State.bytes (s : State) (a : Nat) : Nat → List Byte
  | 0 => []
  | n + 1 => s.byteAt a :: s.bytes (a + 1) n

/-- `MemRead(a, n)`: the `n`-byte little-endian value at offset `a` (R10, R67). -/
def State.memRead (s : State) (a : Nat) : (n : Nat) → BitVec (8 * n)
  | 0 => 0#0
  | n + 1 => s.memRead (a + 1) n ++ s.byteAt a

/-- Writes `bs` to the buffer from offset `a` upward. -/
def State.writeBytes (s : State) (a : Nat) (bs : List Byte) : State :=
  { s with buf := Memory.writeAll s.buf a bs }

/-- Acceptance of command word `c`: LAST_CMD, PENDING, BUSY and DONE, and nothing else (R110). -/
def State.accept (s : State) (c : Word) : State :=
  { s with lastCmd := c, pending := some ⟨c, s.addr, s.len, s.dst⟩, status := s.status.accept }

/-- `complete(code)`: the end of the command being executed (R113). -/
def State.complete (s : State) (code : CompletionCode) : State :=
  { s with status := s.status.complete code, pending := none }

/-- A reset event (R240, R241): every register 0, PENDING empty, the buffer a fresh draw. The parameters and the
host's side (its program, the schedule, what it has read) are not DCSV's and stay (log 12). -/
def State.resetEvent (s : State) : State :=
  { s with
    ie := false, status := {}, lastCmd := 0#32, addr := 0#32, len := 0#32, dst := 0#32
    crc32Result := 0#32, crc32Stored := 0#32, crc16Result := 0#16, crc16Stored := 0#16
    ts := {}, buf := [], draws := s.draws + 1, pending := none }

end Sys2Proof.Machine
end

