-- ==== Sys2Proof/Machine/Operands.lean ====
section
/-! DEFINITION. Operand assembly (R91), the range check (R114) and the common part of every command's engine step
(R112). -/

namespace Sys2Proof.Machine

/-- `in_range(kind, a, l, t)`: the table of R114, in natural-number arithmetic (R9). The operands a, l and t are ADDR,
LEN and DST as they stood at acceptance, zero-extended (R91). -/
def inRange (size : Nat) (p : Pending) : Instr → Bool
  | .crc32Calc => decide (p.addr.toNat + p.len.toNat ≤ size)
  | .crc32Check => decide (p.addr.toNat + p.len.toNat + 4 ≤ size)
  | .crc16Calc => decide (p.addr.toNat + p.len.toNat ≤ size)
  | .crc16Check => decide (p.addr.toNat + p.len.toNat + 2 ≤ size)
  | .bcdDecode => decide (p.addr.toNat + 7 ≤ size)
  | .pbDecode => decide (p.addr.toNat + p.len.toNat ≤ size) && decide (p.dst.toNat + p.len.toNat ≤ size)

/-- The engine step of a legal command `kind` after decoding (R112, R117): the range check, else CODE 2; then the
command's own part `body`, which completes. `body` reads the state as it stood when the step began (R11).
With PENDING empty the engine is not enabled (R38; log 8); with illegal parameters no rule applies (U6; log 2). -/
def runCommand (kind : Instr) (s : State) (body : Pending → State) : Host.Outcome State Fault Refusal :=
  if s.cfg.wf then
    match s.pending with
    | none => .fault .engineNotEnabled
    | some p => if inRange s.cfg.bufSize p kind then .next (body p) else .next (s.complete .truncated)
  else .refused .illegalParameters

end Sys2Proof.Machine
end

