-- ==== Sys2Proof/Machine/Bcd.lean ====
section
/-! DEFINITION. The BCD timestamp decoder: nibble layout (R171), field values (R172), validity (R173, R177), year, leap year
and calendar (R174 to R176), and the meaning of BCD_DECODE (R178). -/

namespace Sys2Proof.Machine

/-- The nibbles of the bytes, least significant first: `n(2j) = byte j [3:0]`, `n(2j+1) = byte j [7:4]`
(R171). -/
def nibbles (bs : List Byte) : List Nat :=
  bs.flatMap fun b => [(b.extractLsb' 0 4).toNat, (b.extractLsb' 4 4).toNat]

/-- The decoded fields, natural numbers (R9, R172). -/
structure BcdFields where
  ms : Nat
  second : Nat
  minute : Nat
  hour : Nat
  doy : Nat
  yy : Nat
  deriving DecidableEq, Repr

/-- Nibble `k` of the list, for k = 0..13. -/
def nibble (ns : List Nat) (k : Nat) : Nat := ns.getD k 0

/-- The field values of R172, by the layout of R171. -/
def bcdFields (ns : List Nat) : BcdFields where
  ms := 100 * nibble ns 2 + 10 * nibble ns 1 + nibble ns 0
  second := 10 * nibble ns 4 + nibble ns 3
  minute := 10 * nibble ns 6 + nibble ns 5
  hour := 10 * nibble ns 8 + nibble ns 7
  doy := 100 * nibble ns 11 + 10 * nibble ns 10 + nibble ns 9
  yy := 10 * nibble ns 13 + nibble ns 12

/-- `bad_digit`: some nibble exceeds 9 (R173). -/
def badDigit (ns : List Nat) : Bool := ns.any fun n => decide (9 < n)

/-- `YEAR = YEAR_BASE + YY` (R174). -/
def fullYear (cfg : Config) (yy : Nat) : Nat := cfg.yearBase + yy

/-- LEAP: the Gregorian rule (R175). -/
def leapYear (year : Nat) : Bool := (year % 4 == 0 && year % 100 != 0) || year % 400 == 0

/-- The days before each month and the year's length, `C` of R176. -/
def monthTable (leap : Bool) : List Nat :=
  if leap then [0, 31, 60, 91, 121, 152, 182, 213, 244, 274, 305, 335, 366]
  else [0, 31, 59, 90, 120, 151, 181, 212, 243, 273, 304, 334, 365]

/-- MONTH (R176). The table rises, so the one `m` with `C[m−1] < DOY ≤ C[m]` is how many of `C[0..11]` lie below
DOY. -/
def monthOf (leap : Bool) (doy : Nat) : Nat :=
  (((monthTable leap).take 12).filter fun c => decide (c < doy)).length

/-- DAY `= DOY − C[m−1]` (R176). -/
def dayOf (leap : Bool) (doy : Nat) : Nat := doy - (monthTable leap).getD (monthOf leap doy - 1) 0

/-- `bad_doy`: DOY outside 1 to 365 + LEAP (R177). -/
def badDoy (cfg : Config) (f : BcdFields) : Bool :=
  decide (f.doy < 1) || decide (365 + (leapYear (fullYear cfg f.yy)).toNat < f.doy)

/-- `bad_time`: hour, minute or second out of range, where TIME_RANGE_CHECK asks for it (R177). -/
def badTime (cfg : Config) (f : BcdFields) : Bool :=
  cfg.timeRangeCheck && (decide (23 < f.hour) || decide (59 < f.minute) || decide (59 < f.second))

/-- What a successful BCD_DECODE writes into TS_YEAR, TS_DATE, TS_HMS and TS_MS (R33 to R36, R178). -/
def timestampOf (cfg : Config) (f : BcdFields) : Timestamp :=
  let leap := leapYear (fullYear cfg f.yy)
  { year := BitVec.ofNat 16 (fullYear cfg f.yy)
    yy := BitVec.ofNat 8 f.yy
    leap := leap
    doy := BitVec.ofNat 16 f.doy
    month := BitVec.ofNat 8 (monthOf leap f.doy)
    day := BitVec.ofNat 8 (dayOf leap f.doy)
    hour := BitVec.ofNat 8 f.hour
    minute := BitVec.ofNat 8 f.minute
    second := BitVec.ofNat 8 f.second
    ms := BitVec.ofNat 16 f.ms }

/-- The end of BCD_DECODE once its checks have been evaluated (R178): with any of them 1, CODE 3 and TS_*
unchanged; else the timestamp and CODE 0. -/
def State.finishBcd (s : State) (f : BcdFields) (bd bdoy bt : Bool) : State :=
  let st := { s.status with
    bcdOk := !(bd || bdoy || bt), bcdBadDigit := bd, bcdBadDoy := bdoy, bcdBadTime := bt }
  if bd || bdoy || bt then { s with status := st }.complete .invalidBcd
  else { s with status := st, ts := timestampOf s.cfg f }.complete .ok

/-- BCD_DECODE (R178). The day and time checks are evaluated only without a bad digit (R177). LEN and DST are
ignored (R27). -/
def execBcdDecode (s : State) : Host.Outcome State Fault Refusal :=
  runCommand .bcdDecode s fun p =>
    let ns := nibbles (s.bytes p.addr.toNat 7)
    let f := bcdFields ns
    let bd := badDigit ns
    s.finishBcd f bd (!bd && badDoy s.cfg f) (!bd && badTime s.cfg f)

end Sys2Proof.Machine
end

