-- ==== Sys2Proof/Machine/Crc16.lean ====
section
/-! DEFINITION. The CRC-16/CCITT algorithm (R150, R151) and the meanings of CRC16_CALC (R153) and CRC16_CHECK (R154). -/

namespace Sys2Proof.Machine

/-- One bit of the MSB-first shift register, truncated to 16 bits (R151). -/
def crc16Bit (r : Half) : Half :=
  if r.getLsbD 15 then (r <<< 1) ^^^ 0x1021#16 else r <<< 1

/-- One byte into the running register (R151). -/
def crc16Byte (r : Half) (b : Byte) : Half := crc16Bit^[8] (r ^^^ (b.setWidth 16 <<< 8))

/-- `crc16(bytes)` (R151): initial value 0xFFFF, no final XOR (R150). -/
def crc16 (bs : List Byte) : Half := bs.foldl crc16Byte 0xFFFF#16

/-- The CRC-16 of the range the command names (R153, R154). -/
def rangeCrc16 (s : State) (p : Pending) : Half := crc16 (s.bytes p.addr.toNat p.len.toNat)

/-- The stored CRC-16 right after the range, little-endian (R152, R154). -/
def storedCrc16 (s : State) (p : Pending) : Half := s.memRead (p.addr.toNat + p.len.toNat) 2

/-- CRC16_CALC (R153). -/
def execCrc16Calc (s : State) : Host.Outcome State Fault Refusal :=
  runCommand .crc16Calc s fun p =>
    { s with crc16Result := rangeCrc16 s p }.complete .ok

/-- CRC16_CHECK (R154). A mismatch clears CRC16_OK and is no error (R42). -/
def execCrc16Check (s : State) : Host.Outcome State Fault Refusal :=
  runCommand .crc16Check s fun p =>
    { s with
      crc16Result := rangeCrc16 s p
      crc16Stored := storedCrc16 s p
      status := { s.status with crc16Ok := rangeCrc16 s p == storedCrc16 s p } }.complete .ok

end Sys2Proof.Machine
end

