-- ==== Sys2Proof/Machine/Crc32.lean ====
section
/-! DEFINITION. The CRC-32 algorithm (R130, R131) and the meanings of CRC32_CALC (R132) and CRC32_CHECK (R133). -/

namespace Sys2Proof.Machine

/-- One bit of the LSB-first shift register (R131). -/
def crc32Bit (r : Word) : Word :=
  if r.getLsbD 0 then (r >>> 1) ^^^ 0xEDB88320#32 else r >>> 1

/-- One byte into the running register (R131). -/
def crc32Byte (r : Word) (b : Byte) : Word := crc32Bit^[8] (r ^^^ b.setWidth 32)

/-- `crc32(bytes)` (R131): initial value and final XOR 0xFFFFFFFF (R130). -/
def crc32 (bs : List Byte) : Word := bs.foldl crc32Byte 0xFFFFFFFF#32 ^^^ 0xFFFFFFFF#32

/-- The CRC-32 of the range the command names (R132, R133). -/
def rangeCrc32 (s : State) (p : Pending) : Word := crc32 (s.bytes p.addr.toNat p.len.toNat)

/-- The stored CRC-32 right after the range, little-endian (R133). -/
def storedCrc32 (s : State) (p : Pending) : Word := s.memRead (p.addr.toNat + p.len.toNat) 4

/-- CRC32_CALC (R132). -/
def execCrc32Calc (s : State) : Host.Outcome State Fault Refusal :=
  runCommand .crc32Calc s fun p =>
    { s with crc32Result := rangeCrc32 s p }.complete .ok

/-- CRC32_CHECK (R133). A mismatch clears CRC32_OK and is no error (R42). -/
def execCrc32Check (s : State) : Host.Outcome State Fault Refusal :=
  runCommand .crc32Check s fun p =>
    { s with
      crc32Result := rangeCrc32 s p
      crc32Stored := storedCrc32 s p
      status := { s.status with crc32Ok := rangeCrc32 s p == storedCrc32 s p } }.complete .ok

end Sys2Proof.Machine
end

