-- ==== Sys2Proof/Machine/PseudoBinary.lean ====
section
/-! DEFINITION. The parity strip of one byte (R200) and the meaning of PB_DECODE (R201). -/

namespace Sys2Proof.Machine

/-- `pb(b) = b & 0x7F` (R200). -/
def stripParity (b : Byte) : Byte := b &&& 0x7F#8

/-- PB_DECODE (R201): every source byte is read from the buffer as it stood before the first write. -/
def execPbDecode (s : State) : Host.Outcome State Fault Refusal :=
  runCommand .pbDecode s fun p =>
    (s.writeBytes p.dst.toNat ((s.bytes p.addr.toNat p.len.toNat).map stripParity)).complete .ok

end Sys2Proof.Machine
end

