-- ==== Sys2Proof/Machine/Dispatch.lean ====
section
/-! DEFINITION. The dispatch of an instruction to its meaning, one arm a constructor. -/

namespace Sys2Proof.Machine

def exec (i : Instr) (s : State) : Host.Outcome State Fault Refusal :=
  match i with
  | .crc32Calc => Sys2Proof.Machine.execCrc32Calc s
  | .crc32Check => Sys2Proof.Machine.execCrc32Check s
  | .crc16Calc => Sys2Proof.Machine.execCrc16Calc s
  | .crc16Check => Sys2Proof.Machine.execCrc16Check s
  | .bcdDecode => Sys2Proof.Machine.execBcdDecode s
  | .pbDecode => Sys2Proof.Machine.execPbDecode s

end Sys2Proof.Machine
end

