-- ==== Sys2Proof/Machine/HostBus.lean ====
section
/-! DEFINITION. The host's side of the bus: window decode (R61), the register map (R20), reads (R62 to R64) and writes with
strobes (R65, R66), including those dropped while a command is in flight (R116). -/

namespace Sys2Proof.Machine

/-- The 15 named registers (R20). -/
inductive Reg where
  | id | ctrl | status | cmd | addr | len | dst
  | crc32Result | crc32Stored | crc16Result | crc16Stored
  | tsYear | tsDate | tsHms | tsMs
  deriving DecidableEq, Repr

/-- Each register's byte offset in the window (R20). -/
def Reg.offset : Reg → Nat
  | .id => 0x0000
  | .ctrl => 0x0004
  | .status => 0x0008
  | .cmd => 0x000C
  | .addr => 0x0010
  | .len => 0x0014
  | .dst => 0x0018
  | .crc32Result => 0x0020
  | .crc32Stored => 0x0024
  | .crc16Result => 0x0028
  | .crc16Stored => 0x002C
  | .tsYear => 0x0030
  | .tsDate => 0x0034
  | .tsHms => 0x0038
  | .tsMs => 0x003C

/-- Every named register (R20). -/
def Reg.all : List Reg :=
  [.id, .ctrl, .status, .cmd, .addr, .len, .dst, .crc32Result, .crc32Stored, .crc16Result, .crc16Stored,
    .tsYear, .tsDate, .tsHms, .tsMs]

/-- What a host access reaches (R61): a named register, reserved space (R40) or the buffer window, whose word
starts at buffer offset `b` (R62). -/
inductive Target where
  | reg (r : Reg)
  | reserved
  | window (b : Nat)
  deriving DecidableEq, Repr

/-- The word offset `W`: address bits [1:0] are ignored (R61, R65). -/
def wordOffset (a : WinAddr) : Nat := (a &&& 0x1FFFC#17).toNat

/-- Window decode (R61). -/
def target (a : WinAddr) : Target :=
  if 0x10000 ≤ wordOffset a then .window (wordOffset a - 0x10000)
  else
    match Reg.all.find? (fun r => r.offset == wordOffset a) with
    | some r => .reg r
    | none => .reserved

/-- Byte lane `k` of a bus word, bits [8k+7:8k] (R60, R68). -/
def lane (d : Word) (k : Nat) : Byte := d.extractLsb' (8 * k) 8

/-- `lanemask(strb)`: 0xFF in each strobed lane, 0x00 elsewhere (R66). -/
def laneMask (strb : Strobe) : Word :=
  (if strb.getLsbD 3 then 0xFF#8 else 0x00#8) ++ (if strb.getLsbD 2 then 0xFF#8 else 0x00#8)
    ++ (if strb.getLsbD 1 then 0xFF#8 else 0x00#8) ++ (if strb.getLsbD 0 then 0xFF#8 else 0x00#8)

/-- A strobed write of `d` to a read-write register that holds `old`, under lane mask `m` and the register's
write mask `w` (R66). -/
def mergeLanes (old d m w : Word) : Word := (old &&& ~~~m) ||| (d &&& m &&& w)

/-- The value a host read of a register returns (R20 to R36). -/
def State.readReg (s : State) : Reg → Word
  | .id => 0x56534344#32
  | .ctrl => ctrlWord s.ie
  | .status => s.status.word
  | .cmd => s.lastCmd
  | .addr => s.addr
  | .len => s.len
  | .dst => s.dst
  | .crc32Result => s.crc32Result
  | .crc32Stored => s.crc32Stored
  | .crc16Result => s.crc16Result.setWidth 32
  | .crc16Stored => s.crc16Stored.setWidth 32
  | .tsYear => 0#7 ++ BitVec.ofBool s.ts.leap ++ s.ts.yy ++ s.ts.year
  | .tsDate => s.ts.day ++ s.ts.month ++ s.ts.doy
  | .tsHms => 0#8 ++ s.ts.second ++ s.ts.minute ++ s.ts.hour
  | .tsMs => s.ts.ms.setWidth 32

/-- One lane of a window read: the buffer byte if the lane is present, 0x00 if it is absent (R62). -/
def State.readLane (s : State) (a : Nat) : Byte := if a < s.cfg.bufSize then s.byteAt a else 0x00#8

/-- `HostRead(A)`: the word it returns (R60 to R65). It changes no state (R64). -/
def State.hostRead (s : State) (a : WinAddr) : Word :=
  match target a with
  | .reg r => s.readReg r
  | .reserved => 0#32
  | .window b => s.readLane (b + 3) ++ s.readLane (b + 2) ++ s.readLane (b + 1) ++ s.readLane b

/-- One lane of a window write: performed if the lane is strobed and present (R62). -/
def writeLane (size : Nat) (m : List Host.Cell) (a : Nat) (strobed : Bool) (v : Byte) : List Host.Cell :=
  if strobed && decide (a < size) then Memory.write m a v else m

/-- A window write that is not dropped (R62): all its lanes take effect together (R70). -/
def writeWindow (size : Nat) (m : List Host.Cell) (b : Nat) (d : Word) (strb : Strobe) : List Host.Cell :=
  writeLane size
    (writeLane size
      (writeLane size (writeLane size m b (strb.getLsbD 0) (lane d 0)) (b + 1) (strb.getLsbD 1) (lane d 1))
      (b + 2) (strb.getLsbD 2) (lane d 2))
    (b + 3) (strb.getLsbD 3) (lane d 3)

/-- A register write that is not dropped, with lane mask `m` (R66). Writes to read-only registers change nothing
(R20). A write to CMD issues `d & m` (R25, R110). -/
def State.writeReg (s : State) (r : Reg) (d m : Word) : State :=
  match r with
  | .ctrl => { s with ie := (mergeLanes (ctrlWord s.ie) d m 1#32).getLsbD 0 }
  | .status => { s with status := s.status.clear (d &&& m) }
  | .cmd => s.accept (d &&& m)
  | .addr => { s with addr := mergeLanes s.addr d m 0xFFFFFFFF#32 }
  | .len => { s with len := mergeLanes s.len d m 0xFFFFFFFF#32 }
  | .dst => { s with dst := mergeLanes s.dst d m 0xFFFFFFFF#32 }
  | .id | .crc32Result | .crc32Stored | .crc16Result | .crc16Stored
  | .tsYear | .tsDate | .tsHms | .tsMs => s

/-- The targets whose writes are dropped while BUSY: CMD, ADDR, LEN, DST and any word of the buffer window, even
one whose lanes are all absent (R116). -/
def Target.heldWhileBusy : Target → Bool
  | .reg .cmd | .reg .addr | .reg .len | .reg .dst => true
  | .window _ => true
  | _ => false

/-- `HostWrite(A, d, strb)` (R60, R66, R116). No strobe: no effect anywhere. Whether a command is in flight is asked
of BUSY, as R110 and R116 do (log 15). -/
def State.hostWrite (s : State) (a : WinAddr) (d : Word) (strb : Strobe) : State :=
  if strb = 0#4 then s
  else if s.status.busy && (target a).heldWhileBusy then { s with status := s.status.drop }
  else
    match target a with
    | .reg r => s.writeReg r d (laneMask strb)
    | .reserved => s
    | .window b => { s with buf := writeWindow s.cfg.bufSize s.buf b d strb }

end Sys2Proof.Machine
end

