-- ==== Sys2Proof/Machine/HostProgram.lean ====
section
/-! DEFINITION. The host's program (R96): one bus access a turn, `poll` and the wait for `irq`; the pseudo-operations and
their expansions (R97); the mapping of the source's calls to DCSV commands (R98). -/

namespace Sys2Proof.Machine

/-- The window address of a register (R20, R96). -/
def Reg.place (r : Reg) : WinAddr := BitVec.ofNat 17 r.offset

/-- The host takes one turn: the next access of its program (R60, R96, R111). A `poll` whose value does not match
stays at the head and is tried again at the host's next turn, for ever if nothing ever satisfies it (R123, R257,
U12). With its program exhausted the host makes no access (R123). -/
def hostTurn (s : State) : State :=
  match s.program with
  | [] => s
  | .wr off d strb :: rest => { s.hostWrite off d strb with program := rest }
  | .rd off :: rest => { s with program := rest, reads := ⟨off, s.hostRead off⟩ :: s.reads }
  | .poll off mask val :: rest =>
    if s.hostRead off &&& mask = val then
      { s with program := rest, reads := ⟨off, s.hostRead off⟩ :: s.reads }
    else s
  | .irqWait :: rest => if s.irq then { s with program := rest } else s

/-- `cmd MNEMONIC` (R97). -/
def opCmd (i : Instr) : List HostOp := [.wr Reg.cmd.place (encode i) 0xF#4]

/-- `wait`: `poll STATUS` until BUSY = 0 (R97). -/
def opWait : List HostOp := [.poll Reg.status.place 1#32 0#32]

/-- `ack`: clear DONE, ERR and OVERRUN (R97). -/
def opAck : List HostOp := [.wr Reg.status.place 0xE#32 0xF#4]

/-- `op A, L` (R97). -/
def opSet (a l : Word) : List HostOp := [.wr Reg.addr.place a 0xF#4, .wr Reg.len.place l 0xF#4]

/-- `op A, L, T` (R97). -/
def opSetDst (a l t : Word) : List HostOp := opSet a l ++ [.wr Reg.dst.place t 0xF#4]

/-- The strobe of lane `j` in the word at buffer offset `w` of a `wrbuf n, bs` (R97). -/
def wrbufStrobe (n : Nat) (bs : List Byte) (w j : Nat) : Bool :=
  decide (n ≤ w + j) && decide (w + j < n + bs.length)

/-- The data of lane `j` in the word at buffer offset `w` of a `wrbuf n, bs`; 0 in a lane that is not strobed
(R97; log 14). -/
def wrbufLane (n : Nat) (bs : List Byte) (w j : Nat) : Byte :=
  if wrbufStrobe n bs w j then bs.getD (w + j - n) 0#8 else 0#8

/-- The one word write at buffer offset `w` of a `wrbuf n, bs` (R97). DESIGN CHOICE, unsafe: where `0x10000 + w` is no
17-bit window address (`n + k > 0x10000`) the spec is silent, and the model takes it modulo 2^17 (log 18). -/
def wrbufWord (n : Nat) (bs : List Byte) (w : Nat) : HostOp :=
  .wr (BitVec.ofNat 17 (0x10000 + w))
    (wrbufLane n bs w 3 ++ wrbufLane n bs w 2 ++ wrbufLane n bs w 1 ++ wrbufLane n bs w 0)
    (BitVec.ofBool (wrbufStrobe n bs w 3) ++ BitVec.ofBool (wrbufStrobe n bs w 2)
      ++ BitVec.ofBool (wrbufStrobe n bs w 1) ++ BitVec.ofBool (wrbufStrobe n bs w 0))

/-- `wrbuf n, b0 b1 ...`: one write for each word that covers `n..n+k−1`, in ascending order (R97). -/
def opWrbuf (n : Nat) (bs : List Byte) : List HostOp :=
  if bs.length = 0 then []
  else (List.range ((n + bs.length - 1) / 4 + 1 - n / 4)).map fun j => wrbufWord n bs (4 * (n / 4 + j))

/-- The source's file-header check at buffer offset `h` (R98). -/
def callHeaderCheck (h : Word) : List HostOp := opSet h 60#32 ++ opCmd .crc32Check

/-- The source's block CRC at offset `s` with block length `l` (R98); the subtraction wraps where `l < 2`
(DESIGN CHOICE, unsafe: log 19). -/
def callBlockCrc (s l : Word) : List HostOp := opSet s (l - 2#32) ++ opCmd .crc16Check

/-- The two block types that carry timestamps (R98). -/
inductive BlockType where
  | type1
  | type2
  deriving DecidableEq, Repr

/-- Which of a block's two timestamps, in order of their offsets (R98). -/
inductive TimestampSlot where
  | first
  | second
  deriving DecidableEq, Repr

/-- The block offset of a timestamp (R98). -/
def timestampOffset : BlockType → TimestampSlot → Word
  | .type1, .first => 0x0C#32
  | .type1, .second => 0x13#32
  | .type2, .first => 0x0B#32
  | .type2, .second => 0x12#32

/-- The decoding of a timestamp of the block at `s` (R98); the sum wraps at 2^32 (DESIGN CHOICE, unsafe: log 19). -/
def callTimestamp (s : Word) (b : BlockType) (k : TimestampSlot) : List HostOp :=
  opSet (s + timestampOffset b k) 0#32 ++ opCmd .bcdDecode

/-- The source's payload strip of the block at `s` with block length `l`, to `t` (R98). It needs `l ≥ 0x29`;
the arithmetic wraps at 2^32 (DESIGN CHOICE, unsafe: log 19). -/
def callPayload (s l t : Word) : List HostOp := opSetDst (s + 0x27#32) (l - 0x29#32) t ++ opCmd .pbDecode

/-- The source's `checksum_ok` of a file header: STATUS.CRC32_OK (R98). -/
def State.headerChecksumOk (s : State) : Bool := s.status.crc32Ok

/-- The validity flag of the source's block record: STATUS.CRC16_OK (R98). -/
def State.blockCrcOk (s : State) : Bool := s.status.crc16Ok

/-- A write at system address `x`, if `x` lies in DCSV's window (R72; log 17). -/
def systemWrite (cfg : Config) (x : Nat) (d : Word) (strb : Strobe) : Option HostOp :=
  (cfg.windowAddr x).map fun a => .wr a d strb

/-- A read at system address `x`, if `x` lies in DCSV's window (R72; log 17). -/
def systemRead (cfg : Config) (x : Nat) : Option HostOp := (cfg.windowAddr x).map .rd

end Sys2Proof.Machine
end

