-- ==== Sys2Proof/Machine/Engine.lean ====
section
/-! DEFINITION. The engine step (R112), the schedule that interleaves host, engine and reset (R111, R74, R75), and one turn
of the machine. -/

namespace Sys2Proof.Machine

/-- The engine takes its turn (R112): it decodes PENDING's word and runs the command; an ILLEGAL word completes
with CODE 1 and has no other effect (R115). With PENDING empty it has no step (R38) and nothing changes (log 7). -/
def engineTurn (s : State) : Host.Outcome State Fault Refusal :=
  match s.pending with
  | none => .next s
  | some p =>
    match decode p.word with
    | .ok i => exec i s
    | .error _ => .next (s.complete .illegal)

/-- Whose turn it is: the schedule's next turn. With the schedule exhausted, the engine if a command is in
flight, else the host if its program has an operation left, else nobody (R75, R111, R123; log 5). -/
def State.nextAgent (s : State) : Option Agent :=
  match s.turns with
  | t :: _ => some t
  | [] =>
    match s.pending, s.program with
    | some _, _ => some .engine
    | none, _ :: _ => some .host
    | none, [] => none

/-- The state with the schedule's next turn taken off. -/
def State.dropTurn (s : State) : State := { s with turns := s.turns.tail }

/-- One step of the machine: one event of the total order (R74). With parameters outside R7's ranges no rule
applies (U6; log 2). When nobody has a step to take DCSV is idle and keeps all state (R223; log 6). -/
def runTurn (s : State) : Host.Outcome State Fault Refusal :=
  if s.cfg.wf then
    match s.nextAgent with
    | some .host => .next (hostTurn s.dropTurn)
    | some .engine => engineTurn s.dropTurn
    | some .reset => .next s.dropTurn.resetEvent
    | none => .next s
  else .refused .illegalParameters

/-- A schedule whose next turn is the engine's, when a command is in flight: an exhausted one already is
(`State.nextAgent`). -/
def engineFirst : List Agent → List Agent
  | [] => []
  | ts => .engine :: ts

end Sys2Proof.Machine
end

