-- ==== Sys2Proof/Machine/Step.lean ====
section
/-! DEFINITION. The machine's one step, and where the host places an instruction for the next step to run. -/

namespace Sys2Proof.Machine

/-- One step: the next event of the total order (R74, R111). -/
def step (s : State) : Host.Outcome State Fault Refusal := runTurn s

/-- `s` with the command word of bits `w` accepted (R110), so that the engine's next step runs it, and that step
next. DCSV fetches nothing: PENDING is where the engine finds its instruction (R24, R38; log 11). -/
def State.withFetchWord (s : State) (nbits w : Nat) : State :=
  { s.accept (BitVec.ofNat 32 (w % 2 ^ nbits)) with turns := engineFirst s.turns }

end Sys2Proof.Machine
end

