-- ==== Sys2Proof/Safety.lean ====
section
/-! DEFINITION. The terms the claims about DCSV use: the end of a run (R123), the machine's invariants (R23, R33 to R38, R78,
R110, R177), which event wrote what (R41), and the BCD test generator of R179. -/

namespace Sys2Proof.Safety

open Sys2Proof.Machine

/-- The end of a run: the host's program exhausted and PENDING empty (R123). -/
def runEnded (s : State) : Bool := s.program.isEmpty && s.pending.isNone

/-- The handshake: PENDING is non-empty exactly when BUSY = 1 (R38); DONE and BUSY are never 1 together (R110,
R113, R217); and PENDING's snapshot is still LAST_CMD, ADDR, LEN and DST as they stand (R25, R78, R116). -/
def handshakeOk (s : State) : Bool :=
  (s.status.busy == s.pending.isSome) && !(s.status.busy && s.status.done)
    && s.pending.all (fun p => p == ⟨s.lastCmd, s.addr, s.len, s.dst⟩)

/-- The buffer's written cells are in canonical form, all below BUF_SIZE (R37). -/
def bufferOk (s : State) : Bool := Memory.wf s.cfg.bufSize s.buf

/-- The BCD flags agree with each other and with CODE: success excludes each bad flag, a bad digit suppresses the
other two, and CODE 3 comes with a bad flag and without BCD_OK (R177, R178, R213). -/
def bcdFlagsOk (st : Status) : Bool :=
  !(st.bcdOk && (st.bcdBadDigit || st.bcdBadDoy || st.bcdBadTime))
    && !(st.bcdBadDigit && (st.bcdBadDoy || st.bcdBadTime))
    && (st.code != .invalidBcd || ((st.bcdBadDigit || st.bcdBadDoy || st.bcdBadTime) && !st.bcdOk))

/-- The length of month `m` in 1..12 (R176). -/
def monthLength (leap : Bool) (m : Nat) : Nat :=
  if m = 2 then (if leap then 29 else 28)
  else if m = 4 ∨ m = 6 ∨ m = 9 ∨ m = 11 then 30
  else 31

/-- How many days of the year lie before month `m`: the lengths of the months before it, added up (R176). -/
def daysBefore (leap : Bool) : Nat → Nat
  | 0 => 0
  | 1 => 0
  | m + 2 => daysBefore leap (m + 1) + monthLength leap (m + 1)

/-- LEAP = 1, as R175 states it of the year. -/
abbrev gregorianLeap (year : Nat) : Prop := (year % 4 = 0 ∧ year % 100 ≠ 0) ∨ year % 400 = 0

/-- A timestamp that names a real calendar day and time (R33 to R36, R174 to R177). -/
def timestampOk (cfg : Config) (ts : Timestamp) : Bool :=
  decide (ts.yy.toNat ≤ 99) && (ts.year.toNat == cfg.yearBase + ts.yy.toNat)
    && (ts.leap == decide (gregorianLeap ts.year.toNat))
    && decide (1 ≤ ts.month.toNat) && decide (ts.month.toNat ≤ 12)
    && decide (1 ≤ ts.day.toNat) && decide (ts.day.toNat ≤ monthLength ts.leap ts.month.toNat)
    && (ts.doy.toNat == daysBefore ts.leap ts.month.toNat + ts.day.toNat)
    && decide (ts.hour.toNat ≤ 99) && decide (ts.minute.toNat ≤ 99) && decide (ts.second.toNat ≤ 99)
    && (!cfg.timeRangeCheck
        || (decide (ts.hour.toNat ≤ 23) && decide (ts.minute.toNat ≤ 59) && decide (ts.second.toNat ≤ 59)))
    && decide (ts.ms.toNat ≤ 999)

/-- TS_* hold their reset value or a real timestamp (R33 to R36, R240). -/
def tsOk (s : State) : Bool := s.ts == {} || timestampOk s.cfg s.ts

/-- The command the engine's next step would run, if a legal one is in flight (R112). -/
def inFlight (s : State) : Option Instr :=
  match s.pending with
  | none => none
  | some p =>
    match decode p.word with
    | .ok i => some i
    | .error _ => none

/-- The host's next access, if the next event is the host's (R111). -/
def hostNext (s : State) : Option HostOp :=
  match s.nextAgent with
  | some .host => s.program.head?
  | _ => none

/-- The engine takes its step on an accepted command (R112, R113). -/
def completes (s : State) : Prop := s.nextAgent = some .engine ∧ s.pending.isSome = true

/-- The engine takes its step on the legal command `i` (R112). -/
def runs (i : Instr) (s : State) : Prop := s.nextAgent = some .engine ∧ inFlight s = some i

/-- The next event is a host write of `d` with strobes `strb` to an address from `lo` up to, but not including,
`hi`, with some lane strobed (R60, R66). -/
def writesAt (lo hi : Nat) (d : Word) (strb : Strobe) (s : State) : Prop :=
  ∃ off, hostNext s = some (.wr off d strb) ∧ strb ≠ 0#4 ∧ lo ≤ off.toNat ∧ off.toNat < hi

/-- The next event accepts a command: a strobed write to CMD while BUSY = 0 (R110). -/
def accepts (s : State) : Prop := (∃ d strb, writesAt 0x0C 0x10 d strb s) ∧ s.status.busy = false

/-- The next event is a write of 1 to bit `k` of STATUS in its strobed low lane (R23, R66). -/
def acknowledges (k : Nat) (s : State) : Prop :=
  ∃ d strb, writesAt 0x08 0x0C d strb s ∧ strb.getLsbD 0 = true ∧ d.getLsbD k = true

/-- The next event is a host write that is dropped because a command is in flight (R116). -/
def drops (s : State) : Prop :=
  ((∃ d strb, writesAt 0x0C 0x1C d strb s) ∨ ∃ d strb, writesAt 0x10000 0x20000 d strb s) ∧ s.status.busy = true

/-- The command word of each instruction, as the opcode map prints it (R92). -/
def matchWord : Instr → Nat
  | .crc32Calc => 1
  | .crc32Check => 2
  | .crc16Calc => 3
  | .crc16Check => 4
  | .bcdDecode => 5
  | .pbDecode => 6

/-- The table of R114 as it is printed, over the unsigned values of the operands. -/
def fits (size : Nat) (p : Pending) (i : Instr) : Prop :=
  match i with
  | .crc32Calc | .crc16Calc => p.addr.toNat + p.len.toNat ≤ size
  | .crc32Check => p.addr.toNat + p.len.toNat + 4 ≤ size
  | .crc16Check => p.addr.toNat + p.len.toNat + 2 ≤ size
  | .bcdDecode => p.addr.toNat + 7 ≤ size
  | .pbDecode => p.addr.toNat + p.len.toNat ≤ size ∧ p.dst.toNat + p.len.toNat ≤ size

/-- What a command leaves behind, apart from ERR, OVERRUN and DONE, which a host may acknowledge before the engine
step (R66): the result registers, the buffer, CODE and the validity flags (R41, R112). -/
structure Results where
  crc32Result : Word
  crc32Stored : Word
  crc16Result : Half
  crc16Stored : Half
  ts : Timestamp
  buf : List Host.Cell
  draws : Nat
  code : CompletionCode
  crc32Ok : Bool
  crc16Ok : Bool
  bcdOk : Bool
  bcdBadDigit : Bool
  bcdBadDoy : Bool
  bcdBadTime : Bool
  deriving DecidableEq, Repr

/-- The results a state holds. -/
def resultsOf (s : State) : Results where
  crc32Result := s.crc32Result
  crc32Stored := s.crc32Stored
  crc16Result := s.crc16Result
  crc16Stored := s.crc16Stored
  ts := s.ts
  buf := s.buf
  draws := s.draws
  code := s.status.code
  crc32Ok := s.status.crc32Ok
  crc16Ok := s.status.crc16Ok
  bcdOk := s.status.bcdOk
  bcdBadDigit := s.status.bcdBadDigit
  bcdBadDoy := s.status.bcdBadDoy
  bcdBadTime := s.status.bcdBadTime

/-- Two decimal digits as one BCD byte, `hi` in the high nibble. -/
def bcdByte (hi lo : Nat) : Byte := BitVec.ofNat 8 (16 * hi + lo)

/-- The test generator of R179: the 14 digits `YYDDDHHMMSSmmm` paired into 7 bytes, least significant byte
first. -/
def timestampBytes (yy doy hour minute second ms : Nat) : List Byte :=
  [bcdByte (ms / 10 % 10) (ms % 10),
   bcdByte (second % 10) (ms / 100),
   bcdByte (minute % 10) (second / 10),
   bcdByte (hour % 10) (minute / 10),
   bcdByte (doy % 10) (hour / 10),
   bcdByte (doy / 100) (doy / 10 % 10),
   bcdByte (yy / 10) (yy % 10)]

/-- The fields have the numbers of digits the layout gives them (R171). -/
def digitsFit (yy doy hour minute second ms : Nat) : Prop :=
  yy ≤ 99 ∧ doy ≤ 999 ∧ hour ≤ 99 ∧ minute ≤ 99 ∧ second ≤ 99 ∧ ms ≤ 999

/-- The CRC-32 register fed one message bit at a time (R130: LSB first, polynomial 0xEDB88320). -/
def crc32FeedBit (r : Word) (m : Bool) : Word :=
  if (r.getLsbD 0 != m) then (r >>> 1) ^^^ 0xEDB88320#32 else r >>> 1

/-- The bits of a byte, least significant first (R130). -/
def bitsLsbFirst (b : Byte) : List Bool := (List.range 8).map fun k => b.getLsbD k

/-- The CRC-16 register fed one message bit at a time (R150: MSB first, polynomial 0x1021). -/
def crc16FeedBit (r : Half) (m : Bool) : Half :=
  if (r.getLsbD 15 != m) then (r <<< 1) ^^^ 0x1021#16 else r <<< 1

/-- The bits of a byte, most significant first (R150). -/
def bitsMsbFirst (b : Byte) : List Bool := (List.range 8).map fun k => b.getLsbD (7 - k)

end Sys2Proof.Safety
end

