-- ==== Sys2Proof/Certificates/Slice0/Obligations.lean ====
section
/-! DEFINITION. The statements for the provers, one definition each. Each docstring names the rule it formalises. -/

open Sys2Proof Sys2Proof.Machine Sys2Proof.Safety

/-- The decoder reads the six printed command words, and rejects four printed illegal words by name (30_encoding.md
section 3 (opcode map); 95_test_vectors.md E1 to E5). -/
def Obligations.DecodeReadsPrintedWords : Prop :=
  decode 0x00000001#32 = .ok .crc32Calc ∧ decode 0x00000002#32 = .ok .crc32Check
    ∧ decode 0x00000003#32 = .ok .crc16Calc ∧ decode 0x00000004#32 = .ok .crc16Check
    ∧ decode 0x00000005#32 = .ok .bcdDecode ∧ decode 0x00000006#32 = .ok .pbDecode
    ∧ decode 0x00000000#32 = .error .unknownOpcode ∧ decode 0x00000007#32 = .error .unknownOpcode
    ∧ decode 0x00000101#32 = .error .reservedBitsSet ∧ decode 0x80000002#32 = .error .reservedBitsSet

/-- Decoding the encoding of an instruction gives it back (30_encoding.md section 3 (R92, R93)). -/
def Obligations.DecodeOfEncode : Prop :=
  ∀ i : Instr, decode (encode i) = .ok i

/-- A command word is legal exactly when it is one of the six match words (R92). -/
def Obligations.LegalWordsAreTheOpcodeMap : Prop :=
  ∀ c : Word,
    (∀ i : Instr, decode c = .ok i ↔ c.toNat = matchWord i)
      ∧ ((∃ i, decode c = .ok i) ↔ c.toNat / 256 = 0 ∧ 1 ≤ c.toNat % 256 ∧ c.toNat % 256 ≤ 6)
      ∧ (legalWord c = true ↔ ∃ i, decode c = .ok i)

/-- An illegal command word completes with CODE 1 and has no other effect (R94; R115). -/
def Obligations.IllegalWordCompletesWithCodeOne : Prop :=
  ∀ (s : State) (p : Pending), s.pending = some p →
    (p.word.toNat / 256 ≠ 0 ∨ p.word.toNat % 256 = 0 ∨ 7 ≤ p.word.toNat % 256) →
    engineTurn s = .next
      { s with
        status := { s.status with code := .illegal, err := true, done := true, busy := false }
        pending := none }

/-- A step runs exec of the decoded instruction on the engine's turn, and the host's next access on the host's
(40_command_engine.md section 2 (R112); 40_command_engine.md R111; 10_state.md R38; 20_memory.md R74). -/
def Obligations.StepRunsTheNextAgentsTurn : Prop :=
  ∀ s : State, s.cfg.wf = true →
    (∀ (p : Pending) (i : Instr), s.pending = some p → decode p.word = .ok i →
      (s.turns = [] → step s = exec i s)
        ∧ ∀ ts, s.turns = .engine :: ts → step s = exec i { s with turns := ts })
    ∧ (s.turns = [] → s.pending.isSome = true → step s = engineTurn s)
    ∧ (∀ ts, s.turns = .engine :: ts → step s = engineTurn { s with turns := ts })
    ∧ (s.turns = [] → s.pending = none → s.program ≠ [] → step s = .next (hostTurn s))
    ∧ ∀ ts, s.turns = .host :: ts → step s = .next (hostTurn { s with turns := ts })

/-- With legal parameters no step faults or is refused (60_exceptions.md section 2 (R212); 60_exceptions.md section
4 (R214); 20_memory.md R63; 60_exceptions.md R219). -/
def Obligations.StepAlwaysAnswersNext : Prop :=
  ∀ s : State, s.cfg.wf = true → ∃ t, step s = .next t

/-- Parameters outside their legal ranges are refused by name (93_implementation_defined.md U6; 00_scope.md R7). -/
def Obligations.IllegalParametersAreRefused : Prop :=
  ∀ s : State, (s.cfg.bufSize % 4 ≠ 0 ∨ s.cfg.bufSize < 64 ∨ 65536 < s.cfg.bufSize ∨ 65436 < s.cfg.yearBase) →
    step s = .refused .illegalParameters ∧ ∀ i : Instr, exec i s = .refused .illegalParameters

/-- No step changes the parameters (10_state.md R43; 00_scope.md R7; 40_command_engine.md R124). -/
def Obligations.ParametersNeverChange : Prop :=
  ∀ s t : State, step s = .next t → t.cfg = s.cfg

/-- CRC32_CALC writes the CRC-32 of the range and completes; out of range it is TRUNCATED (R132). -/
def Obligations.Crc32CalcResult : Prop :=
  encode .crc32Calc = 0x00000001#32
    ∧ (∀ (s : State) (p : Pending), s.cfg.wf = true → s.pending = some p →
        p.addr.toNat + p.len.toNat ≤ s.cfg.bufSize →
        exec .crc32Calc s = .next
          { s with
            crc32Result := crc32 (s.bytes p.addr.toNat p.len.toNat)
            status := { s.status with code := .ok, done := true, busy := false }
            pending := none })
    ∧ (∀ (s : State) (p : Pending), s.cfg.wf = true → s.pending = some p →
        s.cfg.bufSize < p.addr.toNat + p.len.toNat →
        exec .crc32Calc s = .next
          { s with
            status := { s.status with code := .truncated, err := true, done := true, busy := false }
            pending := none })
    ∧ ∀ (s : State) (a : Nat), crc32 (s.bytes a 0) = 0x00000000#32

/-- CRC16_CALC writes the CRC-16 of the range and completes; out of range it is TRUNCATED (R153). -/
def Obligations.Crc16CalcResult : Prop :=
  encode .crc16Calc = 0x00000003#32
    ∧ (∀ (s : State) (p : Pending), s.cfg.wf = true → s.pending = some p →
        p.addr.toNat + p.len.toNat ≤ s.cfg.bufSize →
        exec .crc16Calc s = .next
          { s with
            crc16Result := crc16 (s.bytes p.addr.toNat p.len.toNat)
            status := { s.status with code := .ok, done := true, busy := false }
            pending := none })
    ∧ (∀ (s : State) (p : Pending), s.cfg.wf = true → s.pending = some p →
        s.cfg.bufSize < p.addr.toNat + p.len.toNat →
        exec .crc16Calc s = .next
          { s with
            status := { s.status with code := .truncated, err := true, done := true, busy := false }
            pending := none })
    ∧ ∀ (s : State) (a : Nat), crc16 (s.bytes a 0) = 0xFFFF#16

/-- CRC32_CHECK writes computed, stored and CRC32_OK and completes; out of range it is TRUNCATED (R133). -/
def Obligations.Crc32CheckResult : Prop :=
  encode .crc32Check = 0x00000002#32
    ∧ (∀ (s : State) (p : Pending), s.cfg.wf = true → s.pending = some p →
        p.addr.toNat + p.len.toNat + 4 ≤ s.cfg.bufSize →
        exec .crc32Check s = .next
          { s with
            crc32Result := crc32 (s.bytes p.addr.toNat p.len.toNat)
            crc32Stored := s.memRead (p.addr.toNat + p.len.toNat) 4
            status := { s.status with
              crc32Ok := decide (crc32 (s.bytes p.addr.toNat p.len.toNat)
                = s.memRead (p.addr.toNat + p.len.toNat) 4)
              code := .ok, done := true, busy := false }
            pending := none })
    ∧ ∀ (s : State) (p : Pending), s.cfg.wf = true → s.pending = some p →
        s.cfg.bufSize < p.addr.toNat + p.len.toNat + 4 →
        exec .crc32Check s = .next
          { s with
            status := { s.status with code := .truncated, err := true, done := true, busy := false }
            pending := none }

/-- CRC16_CHECK writes computed, stored and CRC16_OK and completes; out of range it is TRUNCATED (R154). -/
def Obligations.Crc16CheckResult : Prop :=
  encode .crc16Check = 0x00000004#32
    ∧ (∀ (s : State) (p : Pending), s.cfg.wf = true → s.pending = some p →
        p.addr.toNat + p.len.toNat + 2 ≤ s.cfg.bufSize →
        exec .crc16Check s = .next
          { s with
            crc16Result := crc16 (s.bytes p.addr.toNat p.len.toNat)
            crc16Stored := s.memRead (p.addr.toNat + p.len.toNat) 2
            status := { s.status with
              crc16Ok := decide (crc16 (s.bytes p.addr.toNat p.len.toNat)
                = s.memRead (p.addr.toNat + p.len.toNat) 2)
              code := .ok, done := true, busy := false }
            pending := none })
    ∧ ∀ (s : State) (p : Pending), s.cfg.wf = true → s.pending = some p →
        s.cfg.bufSize < p.addr.toNat + p.len.toNat + 2 →
        exec .crc16Check s = .next
          { s with
            status := { s.status with code := .truncated, err := true, done := true, busy := false }
            pending := none }

/-- BCD_DECODE in range answers CODE 3 with TS_* unchanged, or CODE 0 with the decoded timestamp
(43_bcd_timestamp.md section 4 (R178)). -/
def Obligations.BcdDecodeOutcome : Prop :=
  ∀ (s : State) (p : Pending), s.cfg.wf = true → s.pending = some p → p.addr.toNat + 7 ≤ s.cfg.bufSize →
    let ns := nibbles (s.bytes p.addr.toNat 7)
    let f := bcdFields ns
    let bd := badDigit ns
    let bdoy := !bd && badDoy s.cfg f
    let bt := !bd && badTime s.cfg f
    ((bd || bdoy || bt) = true →
      exec .bcdDecode s = .next
        { s with
          status := { s.status with
            bcdOk := false, bcdBadDigit := bd, bcdBadDoy := bdoy, bcdBadTime := bt
            code := .invalidBcd, err := true, done := true, busy := false }
          pending := none })
    ∧ ((bd || bdoy || bt) = false →
      exec .bcdDecode s = .next
        { s with
          status := { s.status with
            bcdOk := true, bcdBadDigit := false, bcdBadDoy := false, bcdBadTime := false
            code := .ok, done := true, busy := false }
          ts := timestampOf s.cfg f
          pending := none })

/-- BCD_DECODE returns exactly the digit values the timestamp bytes were built from, with the full year and LEAP
(43_bcd_timestamp.md R179; 43_bcd_timestamp.md R171, R172, R174, R175). -/
def Obligations.BcdRoundTrip : Prop :=
  ∀ (s : State) (p : Pending) (yy doy hour minute second ms : Nat), s.cfg.wf = true → s.pending = some p →
    p.addr.toNat + 7 ≤ s.cfg.bufSize → digitsFit yy doy hour minute second ms →
    s.bytes p.addr.toNat 7 = timestampBytes yy doy hour minute second ms →
    1 ≤ doy → doy ≤ (if gregorianLeap (s.cfg.yearBase + yy) then 366 else 365) →
    (s.cfg.timeRangeCheck = true → hour ≤ 23 ∧ minute ≤ 59 ∧ second ≤ 59) →
    ∃ t, exec .bcdDecode s = .next t ∧ t.status.code = .ok ∧ t.status.bcdOk = true
      ∧ t.ts.yy.toNat = yy ∧ t.ts.doy.toNat = doy ∧ t.ts.hour.toNat = hour ∧ t.ts.minute.toNat = minute
      ∧ t.ts.second.toNat = second ∧ t.ts.ms.toNat = ms
      ∧ t.ts.year.toNat = s.cfg.yearBase + yy ∧ (t.ts.leap = true ↔ gregorianLeap (s.cfg.yearBase + yy))

/-- Any nibble above 9 in the 7 bytes is a bad digit: CODE 3, day and time not checked, TS_* unchanged (R173). -/
def Obligations.BcdBadDigitRejected : Prop :=
  ∀ (s : State) (p : Pending), s.cfg.wf = true → s.pending = some p → p.addr.toNat + 7 ≤ s.cfg.bufSize →
    ((∃ j, j < 7 ∧ (9 < (s.byteAt (p.addr.toNat + j)).toNat % 16 ∨ 9 < (s.byteAt (p.addr.toNat + j)).toNat / 16)) →
      ∃ t, exec .bcdDecode s = .next t ∧ t.status.code = .invalidBcd ∧ t.status.bcdBadDigit = true
        ∧ t.status.bcdBadDoy = false ∧ t.status.bcdBadTime = false ∧ t.status.bcdOk = false ∧ t.ts = s.ts)
    ∧ ((∀ j, j < 7 →
        (s.byteAt (p.addr.toNat + j)).toNat % 16 ≤ 9 ∧ (s.byteAt (p.addr.toNat + j)).toNat / 16 ≤ 9) →
      ∃ t, exec .bcdDecode s = .next t ∧ t.status.bcdBadDigit = false)

/-- With decimal digits only, BAD_DOY and BAD_TIME are exactly the range checks, and either fails with CODE 3
(43_bcd_timestamp.md section 3 (R175, R177)). -/
def Obligations.BcdRangeChecksRejected : Prop :=
  ∀ (s : State) (p : Pending) (yy doy hour minute second ms : Nat), s.cfg.wf = true → s.pending = some p →
    p.addr.toNat + 7 ≤ s.cfg.bufSize → digitsFit yy doy hour minute second ms →
    s.bytes p.addr.toNat 7 = timestampBytes yy doy hour minute second ms →
    ∃ t, exec .bcdDecode s = .next t ∧ t.status.bcdBadDigit = false
      ∧ (t.status.bcdBadDoy = true ↔ doy < 1 ∨ (if gregorianLeap (s.cfg.yearBase + yy) then 366 else 365) < doy)
      ∧ (t.status.bcdBadTime = true
          ↔ s.cfg.timeRangeCheck = true ∧ (23 < hour ∨ 59 < minute ∨ 59 < second))
      ∧ (t.status.code = .invalidBcd ↔ t.status.bcdBadDoy = true ∨ t.status.bcdBadTime = true)
      ∧ (t.status.code = .invalidBcd → t.ts = s.ts)

/-- The month and day of a day of year are the only ones that the month lengths allow (43_bcd_timestamp.md section 3
(R176)). -/
def Obligations.CalendarMatchesMonthLengths : Prop :=
  ∀ (leap : Bool) (doy : Nat), 1 ≤ doy → doy ≤ (if leap then 366 else 365) →
    1 ≤ monthOf leap doy ∧ monthOf leap doy ≤ 12
      ∧ 1 ≤ dayOf leap doy ∧ dayOf leap doy ≤ monthLength leap (monthOf leap doy)
      ∧ daysBefore leap (monthOf leap doy) + dayOf leap doy = doy
      ∧ ∀ m d, 1 ≤ m → m ≤ 12 → 1 ≤ d → d ≤ monthLength leap m → daysBefore leap m + d = doy →
          m = monthOf leap doy ∧ d = dayOf leap doy

/-- PB_DECODE strips bit 7 from LEN bytes at ADDR into DST, from the buffer as it stood, and changes nothing else
(R200; R201). -/
def Obligations.PbDecodeBytes : Prop :=
  encode .pbDecode = 0x00000006#32
    ∧ (∀ (s : State) (p : Pending), s.cfg.wf = true → s.pending = some p →
        p.addr.toNat + p.len.toNat ≤ s.cfg.bufSize → p.dst.toNat + p.len.toNat ≤ s.cfg.bufSize →
        ∃ t, exec .pbDecode s = .next t
          ∧ (∀ x, t.byteAt x =
              if p.dst.toNat ≤ x ∧ x < p.dst.toNat + p.len.toNat then
                s.byteAt (p.addr.toNat + (x - p.dst.toNat)) &&& 0x7F#8
              else s.byteAt x)
          ∧ { t with buf := s.buf } =
              { s with
                status := { s.status with code := .ok, done := true, busy := false }
                pending := none })
    ∧ ∀ (s : State) (p : Pending), s.cfg.wf = true → s.pending = some p →
        (s.cfg.bufSize < p.addr.toNat + p.len.toNat ∨ s.cfg.bufSize < p.dst.toNat + p.len.toNat) →
        exec .pbDecode s = .next
          { s with
            status := { s.status with code := .truncated, err := true, done := true, busy := false }
            pending := none }

/-- Every command is TRUNCATED exactly when its row of the range table fails, in unbounded arithmetic (R114). -/
def Obligations.RangeCheckTable : Prop :=
  ∀ (i : Instr) (s : State) (p : Pending), s.cfg.wf = true → s.pending = some p →
    (¬ fits s.cfg.bufSize p i →
      exec i s = .next
        { s with
          status := { s.status with code := .truncated, err := true, done := true, busy := false }
          pending := none })
    ∧ (fits s.cfg.bufSize p i → ∃ t, exec i s = .next t ∧ t.status.code ≠ .truncated)

/-- Every engine step on an accepted command completes it: CODE, sticky ERR, DONE, BUSY, PENDING (R113). -/
def Obligations.CompletionEffects : Prop :=
  (∀ (s : State) (c : CompletionCode),
      s.complete c =
        { s with
          status := { s.status with
            code := c, err := if c = .ok then s.status.err else true, done := true, busy := false }
          pending := none })
  ∧ (∀ (s : State) (p : Pending), s.cfg.wf = true → s.pending = some p →
    ∃ t, engineTurn s = .next t ∧ t.status.done = true ∧ t.status.busy = false ∧ t.pending = none
      ∧ (t.status.err = true ↔ s.status.err = true ∨ t.status.code ≠ .ok))
  ∧ ∀ s t : State, step s = .next t → s.status.err = true → t.status.err = false →
      acknowledges 2 s ∨ s.nextAgent = some .reset

/-- A command that completes with CODE 1 or 2 writes only the completion's fields, with CODE 3 also the BCD flags
(R118). -/
def Obligations.FailureLeavesResults : Prop :=
  ∀ (s t : State) (p : Pending), s.pending = some p → engineTurn s = .next t →
    ((t.status.code = .illegal ∨ t.status.code = .truncated) →
      t = { s with
        status := { s.status with code := t.status.code, err := true, done := true, busy := false }
        pending := none })
    ∧ (t.status.code = .invalidBcd →
      t = { s with
        status := { s.status with
          bcdOk := t.status.bcdOk, bcdBadDigit := t.status.bcdBadDigit, bcdBadDoy := t.status.bcdBadDoy
          bcdBadTime := t.status.bcdBadTime
          code := .invalidBcd, err := true, done := true, busy := false }
        pending := none })

/-- What the four CRC commands leave unchanged (41_crc32.md section 3; 42_crc16.md section 3; 10_state.md R41). -/
def Obligations.CrcCommandsFrame : Prop :=
  ∀ s t : State,
    (exec .crc32Calc s = .next t →
      { t with crc32Result := s.crc32Result, status := s.status, pending := s.pending } = s
        ∧ { t.status with
            code := s.status.code, err := s.status.err, done := s.status.done, busy := s.status.busy } = s.status
        ∧ ∀ x, t.byteAt x = s.byteAt x)
    ∧ (exec .crc32Check s = .next t →
      { t with
          crc32Result := s.crc32Result, crc32Stored := s.crc32Stored
          status := s.status, pending := s.pending } = s
        ∧ { t.status with
            crc32Ok := s.status.crc32Ok
            code := s.status.code, err := s.status.err, done := s.status.done, busy := s.status.busy } = s.status
        ∧ ∀ x, t.byteAt x = s.byteAt x)
    ∧ (exec .crc16Calc s = .next t →
      { t with crc16Result := s.crc16Result, status := s.status, pending := s.pending } = s
        ∧ { t.status with
            code := s.status.code, err := s.status.err, done := s.status.done, busy := s.status.busy } = s.status
        ∧ ∀ x, t.byteAt x = s.byteAt x)
    ∧ (exec .crc16Check s = .next t →
      { t with
          crc16Result := s.crc16Result, crc16Stored := s.crc16Stored
          status := s.status, pending := s.pending } = s
        ∧ { t.status with
            crc16Ok := s.status.crc16Ok
            code := s.status.code, err := s.status.err, done := s.status.done, busy := s.status.busy } = s.status
        ∧ ∀ x, t.byteAt x = s.byteAt x)

/-- What BCD_DECODE and PB_DECODE leave unchanged (43_bcd_timestamp.md section 4; 44_pseudo_binary.md section 2;
10_state.md R41). -/
def Obligations.BcdAndPbFrame : Prop :=
  ∀ s t : State,
    (exec .bcdDecode s = .next t →
      { t with ts := s.ts, status := s.status, pending := s.pending } = s
        ∧ { t.status with
            bcdOk := s.status.bcdOk, bcdBadDigit := s.status.bcdBadDigit, bcdBadDoy := s.status.bcdBadDoy
            bcdBadTime := s.status.bcdBadTime
            code := s.status.code, err := s.status.err, done := s.status.done, busy := s.status.busy } = s.status
        ∧ ∀ x, t.byteAt x = s.byteAt x)
    ∧ (exec .pbDecode s = .next t →
      { t with buf := s.buf, status := s.status, pending := s.pending } = s
        ∧ { t.status with
            code := s.status.code, err := s.status.err, done := s.status.done, busy := s.status.busy } = s.status
        ∧ ∀ p, s.pending = some p →
            ∀ x, ¬ (p.dst.toNat ≤ x ∧ x < p.dst.toNat + p.len.toNat) → t.byteAt x = s.byteAt x)

/-- The check values of both CRCs over the ASCII digits 1 to 9, and over nothing (41_crc32.md R130, R131;
42_crc16.md R150, R151; 95_test_vectors.md V1, V6). -/
def Obligations.CrcCheckValues : Prop :=
  crc32 [0x31#8, 0x32#8, 0x33#8, 0x34#8, 0x35#8, 0x36#8, 0x37#8, 0x38#8, 0x39#8] = 0xCBF43926#32
    ∧ crc16 [0x31#8, 0x32#8, 0x33#8, 0x34#8, 0x35#8, 0x36#8, 0x37#8, 0x38#8, 0x39#8] = 0x29B1#16
    ∧ crc32 [] = 0x00000000#32 ∧ crc16 [] = 0xFFFF#16
    ∧ crc32Byte 0xFFFFFFFF#32 0x31#8 = 0x7C231048#32 ∧ crc16Byte 0xFFFF#16 0x31#8 = 0xC782#16

/-- CRC-32 equals the bit-serial register fed the message bits least significant first (41_crc32.md R130 (each byte
is consumed least significant bit first); 41_crc32.md R131). -/
def Obligations.Crc32IsBitSerialLsbFirst : Prop :=
  ∀ bs : List Byte,
    crc32 bs = (bs.flatMap bitsLsbFirst).foldl crc32FeedBit 0xFFFFFFFF#32 ^^^ 0xFFFFFFFF#32

/-- CRC-16 equals the bit-serial register fed the message bits most significant first (42_crc16.md R150 (each byte
is consumed most significant bit first); 42_crc16.md R151). -/
def Obligations.Crc16IsBitSerialMsbFirst : Prop :=
  ∀ bs : List Byte, crc16 bs = (bs.flatMap bitsMsbFirst).foldl crc16FeedBit 0xFFFF#16

/-- Flipping any single bit of the range changes the CRC-32; a changed stored byte changes the stored value
(41_crc32.md R134; 41_crc32.md R131). -/
def Obligations.Crc32DetectsSingleBitFlips : Prop :=
  (∀ (bs : List Byte) (i k : Nat) (h : i < bs.length), k < 8 →
      crc32 (bs.set i (bs[i] ^^^ (1#8 <<< k))) ≠ crc32 bs)
    ∧ (∀ (s s' : State) (a k : Nat), k < 4 → s.byteAt (a + k) ≠ s'.byteAt (a + k) →
        s.memRead a 4 ≠ s'.memRead a 4)
    ∧ crc32 [0x30#8, 0x32#8, 0x33#8, 0x34#8, 0x35#8, 0x36#8, 0x37#8, 0x38#8, 0x39#8] = 0xDC8F2D65#32

/-- Flipping any single bit of the range changes the CRC-16 (42_crc16.md R155; 42_crc16.md R151). -/
def Obligations.Crc16DetectsSingleBitFlips : Prop :=
  (∀ (bs : List Byte) (i k : Nat) (h : i < bs.length), k < 8 →
      crc16 (bs.set i (bs[i] ^^^ (1#8 <<< k))) ≠ crc16 bs)
    ∧ crc16 [0x30#8, 0x32#8, 0x33#8, 0x34#8, 0x35#8, 0x36#8, 0x37#8, 0x38#8, 0x39#8] = 0xC292#16

/-- CRC-16 over bytes and their own CRC is 0 in big-endian order, and no fixed value in the little-endian order
stored (42_crc16.md R152; 95_test_vectors.md V12, V13). -/
def Obligations.Crc16StoredOrderHasNoResidue : Prop :=
  (∀ bs : List Byte, crc16 (bs ++ [(crc16 bs).extractLsb' 8 8, (crc16 bs).extractLsb' 0 8]) = 0x0000#16)
    ∧ ¬ ∃ v : Half, ∀ bs : List Byte,
        crc16 (bs ++ [(crc16 bs).extractLsb' 0 8, (crc16 bs).extractLsb' 8 8]) = v

/-- A multi-byte value read from the buffer is little-endian (20_memory.md R67; 00_scope.md R10). -/
def Obligations.StoredValuesAreLittleEndian : Prop :=
  ∀ (s : State) (a n : Nat),
    (s.memRead a n).toNat = ((List.range n).map fun k => (s.byteAt (a + k)).toNat * 256 ^ k).sum

/-- A strobed write to CMD while idle accepts the masked word and changes nothing else (R110). -/
def Obligations.AcceptCommand : Prop :=
  ∀ (s : State) (a : WinAddr) (d c : Word) (strb : Strobe), 0x0C ≤ a.toNat → a.toNat < 0x10 → strb ≠ 0#4 →
    s.status.busy = false →
    (∀ k, k < 32 → c.getLsbD k = (d.getLsbD k && strb.getLsbD (k / 8))) →
    s.hostWrite a d strb =
      { s with
        lastCmd := c
        pending := some ⟨c, s.addr, s.len, s.dst⟩
        status := { s.status with busy := true, done := false } }

/-- While BUSY, writes to CMD, ADDR, LEN, DST and the window are dropped and set OVERRUN; CTRL and STATUS take
effect (R116). -/
def Obligations.WritesWhileBusy : Prop :=
  ∀ (s : State) (a : WinAddr) (d : Word) (strb : Strobe), s.status.busy = true → strb ≠ 0#4 →
    ((0x0C ≤ a.toNat ∧ a.toNat < 0x1C ∨ 0x10000 ≤ a.toNat) →
      s.hostWrite a d strb = { s with status := { s.status with overrun := true } })
    ∧ (4 ≤ a.toNat ∧ a.toNat < 8 →
      s.hostWrite a d strb = { s with ie := if strb.getLsbD 0 then d.getLsbD 0 else s.ie })
    ∧ (8 ≤ a.toNat ∧ a.toNat < 0x0C →
      s.hostWrite a d strb =
        { s with
          status := { s.status with
            done := s.status.done && !(strb.getLsbD 0 && d.getLsbD 1)
            err := s.status.err && !(strb.getLsbD 0 && d.getLsbD 2)
            overrun := s.status.overrun && !(strb.getLsbD 0 && d.getLsbD 3) } })
    ∧ ((a.toNat < 4 ∨ 0x1C ≤ a.toNat ∧ a.toNat < 0x10000) → s.hostWrite a d strb = s)
    ∧ ((a.toNat < 8 ∨ 0x0C ≤ a.toNat) →
      s.hostRead a = { s with status := { s.status with busy := false } }.hostRead a)

/-- While idle, a strobed write replaces exactly the strobed lanes of ADDR, LEN or DST, and CTRL and STATUS as while
busy (20_memory.md R66; 10_state.md R22, R23, R26, R27, R28). -/
def Obligations.OperandWritesWhileIdle : Prop :=
  ∀ (s : State) (a : WinAddr) (d v : Word) (strb : Strobe), s.status.busy = false →
    (0x10 ≤ a.toNat ∧ a.toNat < 0x14 →
      (∀ k, k < 32 → v.getLsbD k = if strb.getLsbD (k / 8) then d.getLsbD k else s.addr.getLsbD k) →
      s.hostWrite a d strb = { s with addr := v })
    ∧ (0x14 ≤ a.toNat ∧ a.toNat < 0x18 →
      (∀ k, k < 32 → v.getLsbD k = if strb.getLsbD (k / 8) then d.getLsbD k else s.len.getLsbD k) →
      s.hostWrite a d strb = { s with len := v })
    ∧ (0x18 ≤ a.toNat ∧ a.toNat < 0x1C →
      (∀ k, k < 32 → v.getLsbD k = if strb.getLsbD (k / 8) then d.getLsbD k else s.dst.getLsbD k) →
      s.hostWrite a d strb = { s with dst := v })
    ∧ (4 ≤ a.toNat ∧ a.toNat < 8 →
      s.hostWrite a d strb = { s with ie := if strb.getLsbD 0 then d.getLsbD 0 else s.ie })
    ∧ (8 ≤ a.toNat ∧ a.toNat < 0x0C →
      s.hostWrite a d strb =
        { s with
          status := { s.status with
            done := s.status.done && !(strb.getLsbD 0 && d.getLsbD 1)
            err := s.status.err && !(strb.getLsbD 0 && d.getLsbD 2)
            overrun := s.status.overrun && !(strb.getLsbD 0 && d.getLsbD 3) } })
    ∧ ((a.toNat < 4 ∨ 0x1C ≤ a.toNat ∧ a.toNat < 0x10000) → s.hostWrite a d strb = s)
    ∧ (strb = 0#4 → s.hostWrite a d strb = s)

/-- The buffer window maps lane k of the word at window address 0x10000 + b to buffer byte b + k, if present (R62). -/
def Obligations.BufferWindowLanes : Prop :=
  ∀ (s : State) (a : WinAddr) (b : Nat), a.toNat / 4 * 4 = 0x10000 + b →
    (∀ k, k < 4 → lane (s.hostRead a) k = if b + k < s.cfg.bufSize then s.byteAt (b + k) else 0x00#8)
    ∧ (∀ (d : Word) (strb : Strobe), s.status.busy = false →
      { s.hostWrite a d strb with buf := s.buf } = s
      ∧ (∀ k, k < 4 → (s.hostWrite a d strb).byteAt (b + k) =
          if b + k < s.cfg.bufSize ∧ strb.getLsbD k = true then lane d k else s.byteAt (b + k))
      ∧ ∀ x, x < b ∨ b + 4 ≤ x → (s.hostWrite a d strb).byteAt x = s.byteAt x)
    ∧ ∀ (d : Word) (strb : Strobe), s.status.busy = true → ∀ x, (s.hostWrite a d strb).byteAt x = s.byteAt x

/-- A word written to the buffer reads back in one read, and is the little-endian value a command reads there
(20_memory.md R68; 20_memory.md R67). -/
def Obligations.BufferWordReadsBack : Prop :=
  ∀ (s : State) (a : WinAddr) (b : Nat) (d : Word), s.status.busy = false → a.toNat / 4 * 4 = 0x10000 + b →
    b + 4 ≤ s.cfg.bufSize →
    (s.hostWrite a d 0xF#4).hostRead a = d ∧ (s.hostWrite a d 0xF#4).memRead b 4 = d

/-- An access at A behaves exactly as one at A & 0x1FFFC (R65). -/
def Obligations.AddressLowBitsIgnored : Prop :=
  ∀ (s : State) (a : WinAddr) (d : Word) (strb : Strobe),
    s.hostRead a = s.hostRead (a &&& 0x1FFFC#17) ∧ s.hostWrite a d strb = s.hostWrite (a &&& 0x1FFFC#17) d strb

/-- Reserved space reads 0 and ignores writes, even while BUSY (R40; R63). -/
def Obligations.ReservedSpaceReadsZero : Prop :=
  ∀ (s : State) (a : WinAddr), (0x1C ≤ a.toNat ∧ a.toNat < 0x20 ∨ 0x40 ≤ a.toNat ∧ a.toNat < 0x10000) →
    s.hostRead a = 0#32 ∧ ∀ (d : Word) (strb : Strobe), s.hostWrite a d strb = s

/-- ID reads 0x56534344 in every state, and writes to it are ignored (R21). -/
def Obligations.IdIsConstant : Prop :=
  ∀ (s : State) (a : WinAddr), a.toNat < 4 →
    s.hostRead a = 0x56534344#32 ∧ ∀ (d : Word) (strb : Strobe), s.hostWrite a d strb = s

/-- Every named register but ID and STATUS reads at its printed offset the fields the map gives it (10_state.md R20,
R22, R25 to R36). -/
def Obligations.RegisterReadback : Prop :=
  ∀ s : State,
    (s.hostRead 0x0004#17).toNat = s.ie.toNat ∧ s.hostRead 0x000C#17 = s.lastCmd
      ∧ s.hostRead 0x0010#17 = s.addr ∧ s.hostRead 0x0014#17 = s.len ∧ s.hostRead 0x0018#17 = s.dst
      ∧ s.hostRead 0x0020#17 = s.crc32Result ∧ s.hostRead 0x0024#17 = s.crc32Stored
      ∧ (s.hostRead 0x0028#17).toNat = s.crc16Result.toNat ∧ (s.hostRead 0x002C#17).toNat = s.crc16Stored.toNat
      ∧ (s.hostRead 0x0030#17).toNat = s.ts.year.toNat + 2 ^ 16 * s.ts.yy.toNat + 2 ^ 24 * s.ts.leap.toNat
      ∧ (s.hostRead 0x0034#17).toNat = s.ts.doy.toNat + 2 ^ 16 * s.ts.month.toNat + 2 ^ 24 * s.ts.day.toNat
      ∧ (s.hostRead 0x0038#17).toNat = s.ts.hour.toNat + 2 ^ 8 * s.ts.minute.toNat + 2 ^ 16 * s.ts.second.toNat
      ∧ (s.hostRead 0x003C#17).toNat = s.ts.ms.toNat

/-- STATUS reads each field in its printed bits, CODE 0 to 3, and the reserved bits 0 (10_state.md R23;
60_exceptions.md R210). -/
def Obligations.StatusReadback : Prop :=
  ∀ s : State,
    (s.hostRead 0x0008#17).toNat =
      s.status.busy.toNat + 2 * s.status.done.toNat + 4 * s.status.err.toNat + 8 * s.status.overrun.toNat
        + 16 * (match s.status.code with
            | .ok => 0
            | .illegal => 1
            | .truncated => 2
            | .invalidBcd => 3)
        + 2 ^ 8 * s.status.crc32Ok.toNat + 2 ^ 9 * s.status.crc16Ok.toNat + 2 ^ 10 * s.status.bcdOk.toNat
        + 2 ^ 11 * s.status.bcdBadDigit.toNat + 2 ^ 12 * s.status.bcdBadDoy.toNat
        + 2 ^ 13 * s.status.bcdBadTime.toNat

/-- Repeating any host write but one to CMD changes nothing more (20_memory.md R71). -/
def Obligations.RepeatedWritesAreIdempotent : Prop :=
  ∀ (s : State) (a : WinAddr) (d : Word) (strb : Strobe), bufferOk s = true →
    (a.toNat < 0x0C ∨ 0x10 ≤ a.toNat) →
    (s.hostWrite a d strb).hostWrite a d strb = s.hostWrite a d strb

/-- A host turn makes the program's next access: a write is hostWrite, and no read, poll or wait changes DCSV
(20_memory.md R64; 30_encoding.md R96; 40_command_engine.md R111; 70_reset_and_hazards.md R250). -/
def Obligations.HostTurnMakesOneAccess : Prop :=
  ∀ (s : State) (rest : List HostOp),
    (∀ off, s.program = .rd off :: rest →
      hostTurn s = { s with program := rest, reads := ⟨off, s.hostRead off⟩ :: s.reads })
    ∧ (∀ off d strb, s.program = .wr off d strb :: rest →
      hostTurn s = { s.hostWrite off d strb with program := rest })
    ∧ (∀ off mask val, s.program = .poll off mask val :: rest →
      (s.hostRead off &&& mask = val →
        hostTurn s = { s with program := rest, reads := ⟨off, s.hostRead off⟩ :: s.reads })
      ∧ (s.hostRead off &&& mask ≠ val → hostTurn s = s))
    ∧ (s.program = .irqWait :: rest →
      (s.irq = true → hostTurn s = { s with program := rest }) ∧ (s.irq = false → hostTurn s = s))
    ∧ (s.program = [] → hostTurn s = s)

/-- irq is CTRL.IE and STATUS.DONE, and 0 after reset (R39). -/
def Obligations.InterruptLevel : Prop :=
  (∀ s : State, s.irq = true ↔ s.ie = true ∧ s.status.done = true)
    ∧ State.reset.irq = false ∧ ∀ s : State, s.resetEvent.irq = false

/-- irq rises with a completion of any code when IE = 1, and falls at an acceptance or an acknowledge of DONE
(60_exceptions.md R215). -/
def Obligations.InterruptFollowsCompletion : Prop :=
  (∀ (s t : State) (p : Pending), s.pending = some p → engineTurn s = .next t → t.irq = s.ie)
    ∧ (∀ (s : State) (a : WinAddr) (d : Word) (strb : Strobe), 0x0C ≤ a.toNat → a.toNat < 0x10 → strb ≠ 0#4 →
        s.status.busy = false → (s.hostWrite a d strb).irq = false)
    ∧ ∀ (s : State) (a : WinAddr) (d : Word) (strb : Strobe), 8 ≤ a.toNat → a.toNat < 0x0C →
        strb.getLsbD 0 = true → d.getLsbD 1 = true → (s.hostWrite a d strb).irq = false

/-- A system address maps to window address X - DCSV_BASE exactly within the 0x20000 bytes from the base
(20_memory.md R72). -/
def Obligations.SystemAddressMap : Prop :=
  ∀ (cfg : Config) (x : Nat) (a : WinAddr),
    cfg.windowAddr x = some a ↔ cfg.dcsvBase ≤ x ∧ x < cfg.dcsvBase + 0x20000 ∧ a.toNat = x - cfg.dcsvBase

/-- A reset at any point gives every register its reset value, empties PENDING and abandons the command in flight
(70_reset_and_hazards.md R240, R241; 10_state.md R20). -/
def Obligations.ResetEventValues : Prop :=
  ∀ (s : State) (ts : List Agent), s.cfg.wf = true → s.turns = .reset :: ts →
    ∃ t, step s = .next t
      ∧ (∀ r : Reg, r ≠ .id → t.readReg r = 0#32) ∧ t.readReg .id = 0x56534344#32
      ∧ t.pending = none ∧ t.irq = false
      ∧ (∀ x, t.byteAt x = Config.bufferDraw (s.draws + 1) x)
      ∧ t.cfg = s.cfg ∧ t.program = s.program ∧ t.turns = ts ∧ t.reads = s.reads

/-- The state after power-on has the printed reset values, is idle, and meets every invariant
(70_reset_and_hazards.md R240, R242; 10_state.md R20). -/
def Obligations.ResetStateValues : Prop :=
  (∀ r : Reg, r ≠ .id → State.reset.readReg r = 0#32) ∧ State.reset.readReg .id = 0x56534344#32
    ∧ State.reset.pending = none ∧ State.reset.irq = false ∧ step State.reset = .next State.reset
    ∧ State.reset.cfg.wf = true ∧ handshakeOk State.reset = true ∧ bufferOk State.reset = true
    ∧ tsOk State.reset = true ∧ bcdFlagsOk State.reset.status = true

/-- Every step keeps: PENDING non-empty iff BUSY, never BUSY and DONE, snapshot equal to LAST_CMD, ADDR, LEN, DST
(10_state.md R38; 20_memory.md R78; 40_command_engine.md R110, R113, R116; 60_exceptions.md R217). -/
def Obligations.HandshakeInvariantKept : Prop :=
  ∀ s t : State, handshakeOk s = true → step s = .next t → handshakeOk t = true

/-- Every step keeps the buffer's written bytes inside BUF_SIZE, listed in the model's canonical form (log 4)
(10_state.md R37; 20_memory.md R62; 40_command_engine.md R114). -/
def Obligations.BufferInvariantKept : Prop :=
  ∀ s t : State, bufferOk s = true → step s = .next t → bufferOk t = true

/-- Every step keeps TS_* at reset values or at a real calendar day and time (10_state.md R33 to R36;
43_bcd_timestamp.md R174 to R178). -/
def Obligations.TimestampInvariantKept : Prop :=
  ∀ s t : State, tsOk s = true → step s = .next t → tsOk t = true

/-- Every step keeps the BCD flags consistent with each other and with CODE (43_bcd_timestamp.md R177, R178;
60_exceptions.md R213; 10_state.md R23). -/
def Obligations.BcdFlagInvariantKept : Prop :=
  ∀ s t : State, bcdFlagsOk s.status = true → step s = .next t → bcdFlagsOk t.status = true

/-- Each STATUS flag is written only by the events the spec names for it (10_state.md R41, R23; 40_command_engine.md
R110, R113, R116). -/
def Obligations.FlagsHaveOnlyTheirWriters : Prop :=
  ∀ s t : State, step s = .next t → s.nextAgent ≠ some .reset →
    (t.status.busy ≠ s.status.busy →
        accepts s ∧ t.status.busy = true ∨ completes s ∧ t.status.busy = false)
    ∧ (t.status.done ≠ s.status.done →
        (accepts s ∨ acknowledges 1 s) ∧ t.status.done = false ∨ completes s ∧ t.status.done = true)
    ∧ (t.status.err ≠ s.status.err →
        acknowledges 2 s ∧ t.status.err = false
          ∨ completes s ∧ t.status.code ≠ .ok ∧ t.status.err = true)
    ∧ (t.status.overrun ≠ s.status.overrun →
        acknowledges 3 s ∧ t.status.overrun = false ∨ drops s ∧ t.status.overrun = true)
    ∧ (t.status.code ≠ s.status.code → completes s)
    ∧ (t.status.crc32Ok ≠ s.status.crc32Ok → runs .crc32Check s ∧ t.status.code = .ok)
    ∧ (t.status.crc16Ok ≠ s.status.crc16Ok → runs .crc16Check s ∧ t.status.code = .ok)
    ∧ ((t.status.bcdOk ≠ s.status.bcdOk ∨ t.status.bcdBadDigit ≠ s.status.bcdBadDigit
          ∨ t.status.bcdBadDoy ≠ s.status.bcdBadDoy ∨ t.status.bcdBadTime ≠ s.status.bcdBadTime) →
        runs .bcdDecode s ∧ (t.status.code = .ok ∨ t.status.code = .invalidBcd))

/-- Each register is written only by the events the spec names for it (10_state.md R22, R25 to R36; 60_exceptions.md
R222). -/
def Obligations.RegistersHaveOnlyTheirWriters : Prop :=
  ∀ s t : State, step s = .next t → s.nextAgent ≠ some .reset →
    (t.crc32Result ≠ s.crc32Result → (runs .crc32Calc s ∨ runs .crc32Check s) ∧ t.status.code = .ok)
    ∧ (t.crc32Stored ≠ s.crc32Stored → runs .crc32Check s ∧ t.status.code = .ok)
    ∧ (t.crc16Result ≠ s.crc16Result → (runs .crc16Calc s ∨ runs .crc16Check s) ∧ t.status.code = .ok)
    ∧ (t.crc16Stored ≠ s.crc16Stored → runs .crc16Check s ∧ t.status.code = .ok)
    ∧ (t.ts ≠ s.ts → runs .bcdDecode s ∧ t.status.code = .ok)
    ∧ (t.lastCmd ≠ s.lastCmd → accepts s)
    ∧ (t.addr ≠ s.addr → s.status.busy = false ∧ ∃ d strb, writesAt 0x10 0x14 d strb s)
    ∧ (t.len ≠ s.len → s.status.busy = false ∧ ∃ d strb, writesAt 0x14 0x18 d strb s)
    ∧ (t.dst ≠ s.dst → s.status.busy = false ∧ ∃ d strb, writesAt 0x18 0x1C d strb s)
    ∧ (t.ie ≠ s.ie → ∃ d strb, writesAt 0x04 0x08 d strb s)

/-- A buffer byte changes only by a reset, a strobed host write to it while idle, or a PB_DECODE whose destination
covers it (70_reset_and_hazards.md R241; 10_state.md R37; 44_pseudo_binary.md R201; 20_memory.md R62). -/
def Obligations.BufferBytesHaveOnlyTheirWriters : Prop :=
  ∀ (s t : State) (x : Nat), step s = .next t → s.nextAgent ≠ some .reset → t.byteAt x ≠ s.byteAt x →
    (s.status.busy = false ∧ x < s.cfg.bufSize
        ∧ ∃ d strb, writesAt (0x10000 + x / 4 * 4) (0x10000 + x / 4 * 4 + 4) d strb s
            ∧ strb.getLsbD (x % 4) = true)
    ∨ (runs .pbDecode s ∧ t.status.code = .ok
        ∧ ∃ p, s.pending = some p ∧ p.dst.toNat ≤ x ∧ x < p.dst.toNat + p.len.toNat)

/-- While BUSY no host turn changes the command in flight, its inputs, or any result (20_memory.md R78;
70_reset_and_hazards.md R250; 40_command_engine.md R124). -/
def Obligations.BusyHostTurnsLeaveCommandAndResults : Prop :=
  ∀ s : State, s.status.busy = true →
    (hostTurn s).pending = s.pending ∧ (hostTurn s).lastCmd = s.lastCmd ∧ (hostTurn s).addr = s.addr
      ∧ (hostTurn s).len = s.len ∧ (hostTurn s).dst = s.dst ∧ resultsOf (hostTurn s) = resultsOf s
      ∧ (hostTurn s).status.busy = true

/-- A command's results do not depend on how many host accesses fall before its engine step (40_command_engine.md
R116 (the reason), R111; 20_memory.md R75). -/
def Obligations.ResultIndependentOfSchedule : Prop :=
  ∀ (s t : State) (p : Pending) (n : Nat), s.cfg.wf = true → s.status.busy = true → s.pending = some p →
    engineTurn s = .next t →
    ∃ u, engineTurn (hostTurn^[n] s) = .next u ∧ resultsOf u = resultsOf t

/-- Engine steps from equal PENDING and equal buffer bytes have equal effects (40_command_engine.md R121, R112). -/
def Obligations.EngineStepIsDeterministic : Prop :=
  ∀ (s s' t t' : State) (p : Pending), s.cfg = s'.cfg → s.pending = some p → s'.pending = some p →
    (∀ x, x < s.cfg.bufSize → s.byteAt x = s'.byteAt x) →
    { resultsOf s with buf := [], draws := 0 } = { resultsOf s' with buf := [], draws := 0 } →
    engineTurn s = .next t → engineTurn s' = .next t' →
    { resultsOf t with buf := [], draws := 0 } = { resultsOf t' with buf := [], draws := 0 }
      ∧ ∀ x, x < s.cfg.bufSize → t.byteAt x = t'.byteAt x

/-- PENDING becomes empty within one step more than the schedule has turns, by a completion if no reset is scheduled
(20_memory.md R75; 70_reset_and_hazards.md R257; 40_command_engine.md R111). -/
def Obligations.PendingEmptiesWithinSchedule : Prop :=
  ∀ s : State, s.cfg.wf = true → s.pending.isSome = true →
    ∃ k t, k ≤ s.turns.length + 1 ∧ Host.Core.run Sys2Proof.core k s = .next t ∧ t.pending = none
      ∧ (.reset ∉ s.turns → t.status.done = true)

/-- An unsatisfied poll with no command in flight is a hang, and an ended run stays ended: a step changes nothing
(70_reset_and_hazards.md R257; 40_command_engine.md R123; 60_exceptions.md R223; 93_implementation_defined.md
U12). -/
def Obligations.HangsAndEndedRunsStay : Prop :=
  ∀ s : State, s.cfg.wf = true → s.turns = [] →
    (∀ (off : WinAddr) (mask val : Word) (rest : List HostOp), s.pending = none →
      s.program = .poll off mask val :: rest → s.hostRead off &&& mask ≠ val → step s = .next s)
    ∧ (runEnded s = true → step s = .next s)

/-- The word writes of wrbuf leave exactly what writing its bytes one by one would (30_encoding.md R97; 20_memory.md
R62, R66). -/
def Obligations.WrbufWritesItsBytes : Prop :=
  ∀ (s : State) (n : Nat) (bs : List Byte) (rest : List HostOp), s.cfg.wf = true → s.status.busy = false →
    n + bs.length ≤ s.cfg.bufSize → s.program = opWrbuf n bs ++ rest →
    { hostTurn^[(opWrbuf n bs).length] s with buf := s.buf } = { s with program := rest }
      ∧ ∀ x, (hostTurn^[(opWrbuf n bs).length] s).byteAt x =
          if n ≤ x ∧ x < n + bs.length then bs.getD (x - n) 0#8 else s.byteAt x
end

