-- ==== Sys2Proof/Laws/Memory.lean ====
section
/-! SUPPORT. What the buffer operations do: read after write, and that every one keeps the canonical form. -/

namespace Sys2Proof.Machine

/-! ### One byte -/

@[simp] theorem Memory.written_nil (x : Nat) : Memory.written [] x = none := rfl

/-- Read after write: the byte written, and every other offset as before. -/
@[simp] theorem Memory.written_write (m : List Host.Cell) (a : Nat) (b : Byte) (x : Nat) :
    Memory.written (Memory.write m a b) x = if x = a then some b else Memory.written m x := by
  induction m with
  | nil => simp [Memory.write, Memory.written]
  | cons c rest ih =>
    obtain ⟨a', b'⟩ := c
    simp only [Memory.write]
    split
    · simp only [Memory.written]
    · split
      · subst_vars
        by_cases hx : x = a' <;> simp [Memory.written, hx]
      · by_cases hx : x = a'
        · subst hx
          have : x ≠ a := fun h => by omega
          simp [Memory.written, this]
        · simp [Memory.written, hx, ih]

/-- The canonical form from `lo` on is kept by a write at or above `lo` inside the buffer. -/
theorem Memory.wfFrom_write {size lo : Nat} {m : List Host.Cell} {a : Nat} {b : Byte}
    (h : Memory.wfFrom size lo m = true) (hlo : lo ≤ a) (ha : a < size) :
    Memory.wfFrom size lo (Memory.write m a b) = true := by
  induction m generalizing lo with
  | nil => simp [Memory.write, Memory.wfFrom, hlo, ha]
  | cons c rest ih =>
    obtain ⟨a', b'⟩ := c
    simp only [Memory.wfFrom, Bool.and_eq_true, decide_eq_true_eq] at h
    obtain ⟨⟨hl, hs⟩, hr⟩ := h
    simp only [Memory.write]
    split
    · simp [Memory.wfFrom, *]
    · split
      · subst_vars; simp [Memory.wfFrom, *]
      · simp only [Memory.wfFrom, Bool.and_eq_true, decide_eq_true_eq]
        exact ⟨⟨hl, hs⟩, ih hr (by omega)⟩

/-- A write inside the buffer keeps the canonical form. -/
theorem Memory.wf_write {size : Nat} {m : List Host.Cell} {a : Nat} {b : Byte}
    (h : Memory.wf size m = true) (ha : a < size) : Memory.wf size (Memory.write m a b) = true :=
  Memory.wfFrom_write h (Nat.zero_le a) ha

@[simp] theorem Memory.wf_nil (size : Nat) : Memory.wf size [] = true := rfl

/-- Below its first offset a canonical list has nothing written. -/
theorem Memory.written_below {size lo : Nat} {m : List Host.Cell} (h : Memory.wfFrom size lo m = true) {x : Nat}
    (hx : x < lo) : Memory.written m x = none := by
  induction m generalizing lo with
  | nil => rfl
  | cons c rest ih =>
    obtain ⟨a', b'⟩ := c
    simp only [Memory.wfFrom, Bool.and_eq_true, decide_eq_true_eq] at h
    have hne : x ≠ a' := by omega
    simp only [Memory.written, hne, if_false]
    exact ih h.2 (by omega)

/-- At or past the buffer's end a canonical list has nothing written. -/
theorem Memory.written_above {size lo : Nat} {m : List Host.Cell} (h : Memory.wfFrom size lo m = true) {x : Nat}
    (hx : size ≤ x) : Memory.written m x = none := by
  induction m generalizing lo with
  | nil => rfl
  | cons c rest ih =>
    obtain ⟨a', b'⟩ := c
    simp only [Memory.wfFrom, Bool.and_eq_true, decide_eq_true_eq] at h
    have hne : x ≠ a' := by omega
    simp only [Memory.written, hne, if_false]
    exact ih h.2

/-- Equal contents are equal data: two canonical lists with the same written bytes are the same list. -/
theorem Memory.eq_of_written {size lo : Nat} {m₁ m₂ : List Host.Cell} (h₁ : Memory.wfFrom size lo m₁ = true)
    (h₂ : Memory.wfFrom size lo m₂ = true) (h : ∀ x, Memory.written m₁ x = Memory.written m₂ x) : m₁ = m₂ := by
  induction m₁ generalizing lo m₂ with
  | nil =>
    cases m₂ with
    | nil => rfl
    | cons c _ => simpa [Memory.written] using h c.1
  | cons c₁ rest₁ ih =>
    obtain ⟨a₁, b₁⟩ := c₁
    cases m₂ with
    | nil => simpa [Memory.written] using h a₁
    | cons c₂ rest₂ =>
      obtain ⟨a₂, b₂⟩ := c₂
      simp only [Memory.wfFrom, Bool.and_eq_true, decide_eq_true_eq] at h₁ h₂
      have ha : a₁ = a₂ := by
        rcases Nat.lt_trichotomy a₁ a₂ with hlt | heq | hgt
        · have := h a₁
          simp [Memory.written, Nat.ne_of_lt hlt, Memory.written_below h₂.2 (x := a₁) (by omega)] at this
        · exact heq
        · have := h a₂
          simp [Memory.written, Nat.ne_of_lt hgt, Memory.written_below h₁.2 (x := a₂) (by omega)] at this
      subst ha
      have hb : b₁ = b₂ := by simpa [Memory.written] using h a₁
      subst hb
      congr 1
      refine ih h₁.2 h₂.2 fun x => ?_
      by_cases hx : x = a₁
      · subst hx
        rw [Memory.written_below h₁.2 (by omega), Memory.written_below h₂.2 (by omega)]
      · simpa [Memory.written, hx] using h x

/-! ### Consecutive bytes -/

/-- Read after a run of writes: the run's byte inside it, the byte as before outside. -/
theorem Memory.written_writeAll (m : List Host.Cell) (a : Nat) (bs : List Byte) (x : Nat) :
    Memory.written (Memory.writeAll m a bs) x
      = if a ≤ x ∧ x < a + bs.length then bs[x - a]? else Memory.written m x := by
  induction bs generalizing m a with
  | nil =>
    simp only [Memory.writeAll, List.length_nil, Nat.add_zero]
    rw [if_neg (by omega)]
  | cons b bs ih =>
    simp only [Memory.writeAll, ih, List.length_cons, Memory.written_write]
    by_cases hx : x = a
    · subst hx
      rw [if_neg (by omega), if_pos (by omega)]
      simp
    · by_cases hin : a + 1 ≤ x ∧ x < a + 1 + bs.length
      · rw [if_pos hin, if_pos (by omega)]
        obtain ⟨k, hk⟩ : ∃ k, x - a = k + 1 := ⟨x - a - 1, by omega⟩
        rw [hk, show x - (a + 1) = k by omega]
        simp
      · rw [if_neg hin, if_neg hx, if_neg (by omega)]

/-- A run of writes inside the buffer keeps the canonical form. -/
theorem Memory.wf_writeAll {size : Nat} {m : List Host.Cell} {a : Nat} {bs : List Byte}
    (h : Memory.wf size m = true) (hb : a + bs.length ≤ size) : Memory.wf size (Memory.writeAll m a bs) = true := by
  induction bs generalizing m a with
  | nil => exact h
  | cons b bs ih =>
    simp only [List.length_cons] at hb
    exact ih (Memory.wf_write h (by omega)) (by omega)

/-! ### The window's lanes -/

/-- Read after one lane of a window write (R62). -/
theorem written_writeLane (size : Nat) (m : List Host.Cell) (a : Nat) (q : Bool) (v : Byte) (x : Nat) :
    Memory.written (writeLane size m a q v) x
      = if q = true ∧ a < size ∧ x = a then some v else Memory.written m x := by
  unfold writeLane
  cases q <;> by_cases ha : a < size <;> simp [ha]

/-- One lane keeps the canonical form: a lane past the buffer's end is absent (R62). -/
theorem wf_writeLane {size : Nat} {m : List Host.Cell} {a : Nat} {q : Bool} {v : Byte}
    (h : Memory.wf size m = true) : Memory.wf size (writeLane size m a q v) = true := by
  unfold writeLane
  split
  · rename_i hq
    simp only [Bool.and_eq_true, decide_eq_true_eq] at hq
    exact Memory.wf_write h hq.2
  · exact h

/-- A window write keeps the canonical form. -/
theorem wf_writeWindow {size : Nat} {m : List Host.Cell} {b : Nat} {d : Word} {strb : Strobe}
    (h : Memory.wf size m = true) : Memory.wf size (writeWindow size m b d strb) = true :=
  wf_writeLane (wf_writeLane (wf_writeLane (wf_writeLane h)))

/-- Read after a window write: a strobed, present lane holds its data byte, every other offset is as before
(R62). -/
theorem written_writeWindow (size : Nat) (m : List Host.Cell) (b : Nat) (d : Word) (strb : Strobe) (x : Nat) :
    Memory.written (writeWindow size m b d strb) x
      = if b ≤ x ∧ x < b + 4 ∧ strb.getLsbD (x - b) = true ∧ x < size then some (lane d (x - b))
        else Memory.written m x := by
  simp only [writeWindow, written_writeLane]
  by_cases hin : b ≤ x ∧ x < b + 4
  · obtain ⟨k, rfl⟩ : ∃ k, x = b + k := ⟨x - b, by omega⟩
    have hk : k = 0 ∨ k = 1 ∨ k = 2 ∨ k = 3 := by omega
    rcases hk with rfl | rfl | rfl | rfl <;> simp [and_comm]
  · rw [if_neg (by omega), if_neg (by omega), if_neg (by omega), if_neg (by omega), if_neg (by omega)]

/-- The reset state's buffer is canonical. -/
theorem reset_buffer_wf : Memory.wf State.reset.cfg.bufSize State.reset.buf = true := rfl

end Sys2Proof.Machine
end

