-- ==== Sys2Proof/Laws/State.lean ====
section
/-! SUPPORT. One lemma per field per update of State and Status, true by rfl, so that no later proof unfolds a record
update. -/

namespace Sys2Proof.Machine

/-! ### `complete`: R113 -/

@[simp] theorem State.complete_cfg (s : State) (c : CompletionCode) : (s.complete c).cfg = s.cfg := rfl
@[simp] theorem State.complete_ie (s : State) (c : CompletionCode) : (s.complete c).ie = s.ie := rfl
@[simp] theorem State.complete_status (s : State) (c : CompletionCode) : (s.complete c).status = s.status.complete c := rfl
@[simp] theorem State.complete_lastCmd (s : State) (c : CompletionCode) : (s.complete c).lastCmd = s.lastCmd := rfl
@[simp] theorem State.complete_addr (s : State) (c : CompletionCode) : (s.complete c).addr = s.addr := rfl
@[simp] theorem State.complete_len (s : State) (c : CompletionCode) : (s.complete c).len = s.len := rfl
@[simp] theorem State.complete_dst (s : State) (c : CompletionCode) : (s.complete c).dst = s.dst := rfl
@[simp] theorem State.complete_crc32Result (s : State) (c : CompletionCode) : (s.complete c).crc32Result = s.crc32Result := rfl
@[simp] theorem State.complete_crc32Stored (s : State) (c : CompletionCode) : (s.complete c).crc32Stored = s.crc32Stored := rfl
@[simp] theorem State.complete_crc16Result (s : State) (c : CompletionCode) : (s.complete c).crc16Result = s.crc16Result := rfl
@[simp] theorem State.complete_crc16Stored (s : State) (c : CompletionCode) : (s.complete c).crc16Stored = s.crc16Stored := rfl
@[simp] theorem State.complete_ts (s : State) (c : CompletionCode) : (s.complete c).ts = s.ts := rfl
@[simp] theorem State.complete_buf (s : State) (c : CompletionCode) : (s.complete c).buf = s.buf := rfl
@[simp] theorem State.complete_draws (s : State) (c : CompletionCode) : (s.complete c).draws = s.draws := rfl
@[simp] theorem State.complete_pending (s : State) (c : CompletionCode) : (s.complete c).pending = none := rfl
@[simp] theorem State.complete_program (s : State) (c : CompletionCode) : (s.complete c).program = s.program := rfl
@[simp] theorem State.complete_turns (s : State) (c : CompletionCode) : (s.complete c).turns = s.turns := rfl
@[simp] theorem State.complete_reads (s : State) (c : CompletionCode) : (s.complete c).reads = s.reads := rfl

/-! ### `accept`: R110 -/

@[simp] theorem State.accept_cfg (s : State) (c : Word) : (s.accept c).cfg = s.cfg := rfl
@[simp] theorem State.accept_ie (s : State) (c : Word) : (s.accept c).ie = s.ie := rfl
@[simp] theorem State.accept_status (s : State) (c : Word) : (s.accept c).status = s.status.accept := rfl
@[simp] theorem State.accept_lastCmd (s : State) (c : Word) : (s.accept c).lastCmd = c := rfl
@[simp] theorem State.accept_addr (s : State) (c : Word) : (s.accept c).addr = s.addr := rfl
@[simp] theorem State.accept_len (s : State) (c : Word) : (s.accept c).len = s.len := rfl
@[simp] theorem State.accept_dst (s : State) (c : Word) : (s.accept c).dst = s.dst := rfl
@[simp] theorem State.accept_crc32Result (s : State) (c : Word) : (s.accept c).crc32Result = s.crc32Result := rfl
@[simp] theorem State.accept_crc32Stored (s : State) (c : Word) : (s.accept c).crc32Stored = s.crc32Stored := rfl
@[simp] theorem State.accept_crc16Result (s : State) (c : Word) : (s.accept c).crc16Result = s.crc16Result := rfl
@[simp] theorem State.accept_crc16Stored (s : State) (c : Word) : (s.accept c).crc16Stored = s.crc16Stored := rfl
@[simp] theorem State.accept_ts (s : State) (c : Word) : (s.accept c).ts = s.ts := rfl
@[simp] theorem State.accept_buf (s : State) (c : Word) : (s.accept c).buf = s.buf := rfl
@[simp] theorem State.accept_draws (s : State) (c : Word) : (s.accept c).draws = s.draws := rfl
@[simp] theorem State.accept_pending (s : State) (c : Word) : (s.accept c).pending = some ⟨c, s.addr, s.len, s.dst⟩ := rfl
@[simp] theorem State.accept_program (s : State) (c : Word) : (s.accept c).program = s.program := rfl
@[simp] theorem State.accept_turns (s : State) (c : Word) : (s.accept c).turns = s.turns := rfl
@[simp] theorem State.accept_reads (s : State) (c : Word) : (s.accept c).reads = s.reads := rfl

/-! ### `writeBytes`: R10 -/

@[simp] theorem State.writeBytes_cfg (s : State) (a : Nat) (bs : List Byte) : (s.writeBytes a bs).cfg = s.cfg := rfl
@[simp] theorem State.writeBytes_ie (s : State) (a : Nat) (bs : List Byte) : (s.writeBytes a bs).ie = s.ie := rfl
@[simp] theorem State.writeBytes_status (s : State) (a : Nat) (bs : List Byte) : (s.writeBytes a bs).status = s.status := rfl
@[simp] theorem State.writeBytes_lastCmd (s : State) (a : Nat) (bs : List Byte) : (s.writeBytes a bs).lastCmd = s.lastCmd := rfl
@[simp] theorem State.writeBytes_addr (s : State) (a : Nat) (bs : List Byte) : (s.writeBytes a bs).addr = s.addr := rfl
@[simp] theorem State.writeBytes_len (s : State) (a : Nat) (bs : List Byte) : (s.writeBytes a bs).len = s.len := rfl
@[simp] theorem State.writeBytes_dst (s : State) (a : Nat) (bs : List Byte) : (s.writeBytes a bs).dst = s.dst := rfl
@[simp] theorem State.writeBytes_crc32Result (s : State) (a : Nat) (bs : List Byte) : (s.writeBytes a bs).crc32Result = s.crc32Result := rfl
@[simp] theorem State.writeBytes_crc32Stored (s : State) (a : Nat) (bs : List Byte) : (s.writeBytes a bs).crc32Stored = s.crc32Stored := rfl
@[simp] theorem State.writeBytes_crc16Result (s : State) (a : Nat) (bs : List Byte) : (s.writeBytes a bs).crc16Result = s.crc16Result := rfl
@[simp] theorem State.writeBytes_crc16Stored (s : State) (a : Nat) (bs : List Byte) : (s.writeBytes a bs).crc16Stored = s.crc16Stored := rfl
@[simp] theorem State.writeBytes_ts (s : State) (a : Nat) (bs : List Byte) : (s.writeBytes a bs).ts = s.ts := rfl
@[simp] theorem State.writeBytes_buf (s : State) (a : Nat) (bs : List Byte) : (s.writeBytes a bs).buf = Memory.writeAll s.buf a bs := rfl
@[simp] theorem State.writeBytes_draws (s : State) (a : Nat) (bs : List Byte) : (s.writeBytes a bs).draws = s.draws := rfl
@[simp] theorem State.writeBytes_pending (s : State) (a : Nat) (bs : List Byte) : (s.writeBytes a bs).pending = s.pending := rfl
@[simp] theorem State.writeBytes_program (s : State) (a : Nat) (bs : List Byte) : (s.writeBytes a bs).program = s.program := rfl
@[simp] theorem State.writeBytes_turns (s : State) (a : Nat) (bs : List Byte) : (s.writeBytes a bs).turns = s.turns := rfl
@[simp] theorem State.writeBytes_reads (s : State) (a : Nat) (bs : List Byte) : (s.writeBytes a bs).reads = s.reads := rfl

/-! ### `dropTurn`: R111 -/

@[simp] theorem State.dropTurn_cfg (s : State) : (s.dropTurn).cfg = s.cfg := rfl
@[simp] theorem State.dropTurn_ie (s : State) : (s.dropTurn).ie = s.ie := rfl
@[simp] theorem State.dropTurn_status (s : State) : (s.dropTurn).status = s.status := rfl
@[simp] theorem State.dropTurn_lastCmd (s : State) : (s.dropTurn).lastCmd = s.lastCmd := rfl
@[simp] theorem State.dropTurn_addr (s : State) : (s.dropTurn).addr = s.addr := rfl
@[simp] theorem State.dropTurn_len (s : State) : (s.dropTurn).len = s.len := rfl
@[simp] theorem State.dropTurn_dst (s : State) : (s.dropTurn).dst = s.dst := rfl
@[simp] theorem State.dropTurn_crc32Result (s : State) : (s.dropTurn).crc32Result = s.crc32Result := rfl
@[simp] theorem State.dropTurn_crc32Stored (s : State) : (s.dropTurn).crc32Stored = s.crc32Stored := rfl
@[simp] theorem State.dropTurn_crc16Result (s : State) : (s.dropTurn).crc16Result = s.crc16Result := rfl
@[simp] theorem State.dropTurn_crc16Stored (s : State) : (s.dropTurn).crc16Stored = s.crc16Stored := rfl
@[simp] theorem State.dropTurn_ts (s : State) : (s.dropTurn).ts = s.ts := rfl
@[simp] theorem State.dropTurn_buf (s : State) : (s.dropTurn).buf = s.buf := rfl
@[simp] theorem State.dropTurn_draws (s : State) : (s.dropTurn).draws = s.draws := rfl
@[simp] theorem State.dropTurn_pending (s : State) : (s.dropTurn).pending = s.pending := rfl
@[simp] theorem State.dropTurn_program (s : State) : (s.dropTurn).program = s.program := rfl
@[simp] theorem State.dropTurn_turns (s : State) : (s.dropTurn).turns = s.turns.tail := rfl
@[simp] theorem State.dropTurn_reads (s : State) : (s.dropTurn).reads = s.reads := rfl

/-! ### `resetEvent`: R240, R241 -/

@[simp] theorem State.resetEvent_cfg (s : State) : (s.resetEvent).cfg = s.cfg := rfl
@[simp] theorem State.resetEvent_ie (s : State) : (s.resetEvent).ie = false := rfl
@[simp] theorem State.resetEvent_status (s : State) : (s.resetEvent).status = {} := rfl
@[simp] theorem State.resetEvent_lastCmd (s : State) : (s.resetEvent).lastCmd = 0#32 := rfl
@[simp] theorem State.resetEvent_addr (s : State) : (s.resetEvent).addr = 0#32 := rfl
@[simp] theorem State.resetEvent_len (s : State) : (s.resetEvent).len = 0#32 := rfl
@[simp] theorem State.resetEvent_dst (s : State) : (s.resetEvent).dst = 0#32 := rfl
@[simp] theorem State.resetEvent_crc32Result (s : State) : (s.resetEvent).crc32Result = 0#32 := rfl
@[simp] theorem State.resetEvent_crc32Stored (s : State) : (s.resetEvent).crc32Stored = 0#32 := rfl
@[simp] theorem State.resetEvent_crc16Result (s : State) : (s.resetEvent).crc16Result = 0#16 := rfl
@[simp] theorem State.resetEvent_crc16Stored (s : State) : (s.resetEvent).crc16Stored = 0#16 := rfl
@[simp] theorem State.resetEvent_ts (s : State) : (s.resetEvent).ts = {} := rfl
@[simp] theorem State.resetEvent_buf (s : State) : (s.resetEvent).buf = [] := rfl
@[simp] theorem State.resetEvent_draws (s : State) : (s.resetEvent).draws = s.draws + 1 := rfl
@[simp] theorem State.resetEvent_pending (s : State) : (s.resetEvent).pending = none := rfl
@[simp] theorem State.resetEvent_program (s : State) : (s.resetEvent).program = s.program := rfl
@[simp] theorem State.resetEvent_turns (s : State) : (s.resetEvent).turns = s.turns := rfl
@[simp] theorem State.resetEvent_reads (s : State) : (s.resetEvent).reads = s.reads := rfl

/-! ### `Status.accept`: R110 -/

@[simp] theorem Status.accept_busy (st : Status) : (st.accept).busy = true := rfl
@[simp] theorem Status.accept_done (st : Status) : (st.accept).done = false := rfl
@[simp] theorem Status.accept_err (st : Status) : (st.accept).err = st.err := rfl
@[simp] theorem Status.accept_overrun (st : Status) : (st.accept).overrun = st.overrun := rfl
@[simp] theorem Status.accept_code (st : Status) : (st.accept).code = st.code := rfl
@[simp] theorem Status.accept_crc32Ok (st : Status) : (st.accept).crc32Ok = st.crc32Ok := rfl
@[simp] theorem Status.accept_crc16Ok (st : Status) : (st.accept).crc16Ok = st.crc16Ok := rfl
@[simp] theorem Status.accept_bcdOk (st : Status) : (st.accept).bcdOk = st.bcdOk := rfl
@[simp] theorem Status.accept_bcdBadDigit (st : Status) : (st.accept).bcdBadDigit = st.bcdBadDigit := rfl
@[simp] theorem Status.accept_bcdBadDoy (st : Status) : (st.accept).bcdBadDoy = st.bcdBadDoy := rfl
@[simp] theorem Status.accept_bcdBadTime (st : Status) : (st.accept).bcdBadTime = st.bcdBadTime := rfl

/-! ### `Status.complete`: R113 -/

@[simp] theorem Status.complete_busy (st : Status) (c : CompletionCode) : (st.complete c).busy = false := rfl
@[simp] theorem Status.complete_done (st : Status) (c : CompletionCode) : (st.complete c).done = true := rfl
@[simp] theorem Status.complete_err (st : Status) (c : CompletionCode) : (st.complete c).err = (st.err || c != .ok) := rfl
@[simp] theorem Status.complete_overrun (st : Status) (c : CompletionCode) : (st.complete c).overrun = st.overrun := rfl
@[simp] theorem Status.complete_code (st : Status) (c : CompletionCode) : (st.complete c).code = c := rfl
@[simp] theorem Status.complete_crc32Ok (st : Status) (c : CompletionCode) : (st.complete c).crc32Ok = st.crc32Ok := rfl
@[simp] theorem Status.complete_crc16Ok (st : Status) (c : CompletionCode) : (st.complete c).crc16Ok = st.crc16Ok := rfl
@[simp] theorem Status.complete_bcdOk (st : Status) (c : CompletionCode) : (st.complete c).bcdOk = st.bcdOk := rfl
@[simp] theorem Status.complete_bcdBadDigit (st : Status) (c : CompletionCode) : (st.complete c).bcdBadDigit = st.bcdBadDigit := rfl
@[simp] theorem Status.complete_bcdBadDoy (st : Status) (c : CompletionCode) : (st.complete c).bcdBadDoy = st.bcdBadDoy := rfl
@[simp] theorem Status.complete_bcdBadTime (st : Status) (c : CompletionCode) : (st.complete c).bcdBadTime = st.bcdBadTime := rfl

/-! ### `Status.drop`: R116 -/

@[simp] theorem Status.drop_busy (st : Status) : (st.drop).busy = st.busy := rfl
@[simp] theorem Status.drop_done (st : Status) : (st.drop).done = st.done := rfl
@[simp] theorem Status.drop_err (st : Status) : (st.drop).err = st.err := rfl
@[simp] theorem Status.drop_overrun (st : Status) : (st.drop).overrun = true := rfl
@[simp] theorem Status.drop_code (st : Status) : (st.drop).code = st.code := rfl
@[simp] theorem Status.drop_crc32Ok (st : Status) : (st.drop).crc32Ok = st.crc32Ok := rfl
@[simp] theorem Status.drop_crc16Ok (st : Status) : (st.drop).crc16Ok = st.crc16Ok := rfl
@[simp] theorem Status.drop_bcdOk (st : Status) : (st.drop).bcdOk = st.bcdOk := rfl
@[simp] theorem Status.drop_bcdBadDigit (st : Status) : (st.drop).bcdBadDigit = st.bcdBadDigit := rfl
@[simp] theorem Status.drop_bcdBadDoy (st : Status) : (st.drop).bcdBadDoy = st.bcdBadDoy := rfl
@[simp] theorem Status.drop_bcdBadTime (st : Status) : (st.drop).bcdBadTime = st.bcdBadTime := rfl

/-! ### `Status.clear`: R66 -/

@[simp] theorem Status.clear_busy (st : Status) (m : Word) : (st.clear m).busy = st.busy := rfl
@[simp] theorem Status.clear_done (st : Status) (m : Word) : (st.clear m).done = (st.done && !m.getLsbD 1) := rfl
@[simp] theorem Status.clear_err (st : Status) (m : Word) : (st.clear m).err = (st.err && !m.getLsbD 2) := rfl
@[simp] theorem Status.clear_overrun (st : Status) (m : Word) : (st.clear m).overrun = (st.overrun && !m.getLsbD 3) := rfl
@[simp] theorem Status.clear_code (st : Status) (m : Word) : (st.clear m).code = st.code := rfl
@[simp] theorem Status.clear_crc32Ok (st : Status) (m : Word) : (st.clear m).crc32Ok = st.crc32Ok := rfl
@[simp] theorem Status.clear_crc16Ok (st : Status) (m : Word) : (st.clear m).crc16Ok = st.crc16Ok := rfl
@[simp] theorem Status.clear_bcdOk (st : Status) (m : Word) : (st.clear m).bcdOk = st.bcdOk := rfl
@[simp] theorem Status.clear_bcdBadDigit (st : Status) (m : Word) : (st.clear m).bcdBadDigit = st.bcdBadDigit := rfl
@[simp] theorem Status.clear_bcdBadDoy (st : Status) (m : Word) : (st.clear m).bcdBadDoy = st.bcdBadDoy := rfl
@[simp] theorem Status.clear_bcdBadTime (st : Status) (m : Word) : (st.clear m).bcdBadTime = st.bcdBadTime := rfl

end Sys2Proof.Machine
end

