-- ==== Sys2Proof/Laws/Ops.lean ====
section
/-! SUPPORT. What the shared operations do: the buffer's bytes, completion, the common part of a command, the engine's
turn and a turn of the machine. Each inversion lemma says everything its operation can do. -/

namespace Sys2Proof.Machine

/-! ### Bytes of the buffer -/

/-- Read after `writeBytes`. -/
theorem State.byteAt_writeBytes (s : State) (a : Nat) (bs : List Byte) (x : Nat) :
    (s.writeBytes a bs).byteAt x = if h : a ≤ x ∧ x < a + bs.length then bs[x - a]'(by omega) else s.byteAt x := by
  simp only [State.byteAt, State.writeBytes, Memory.written_writeAll]
  split
  · next h => simp [List.getElem?_eq_getElem (show x - a < bs.length by omega)]
  · rfl

@[simp] theorem State.byteAt_complete (s : State) (c : CompletionCode) (x : Nat) :
    (s.complete c).byteAt x = s.byteAt x := rfl

@[simp] theorem State.byteAt_accept (s : State) (c : Word) (x : Nat) : (s.accept c).byteAt x = s.byteAt x := rfl

@[simp] theorem State.byteAt_dropTurn (s : State) (x : Nat) : s.dropTurn.byteAt x = s.byteAt x := rfl

/-- After a reset every byte is that reset's draw (R241). -/
@[simp] theorem State.byteAt_resetEvent (s : State) (x : Nat) :
    s.resetEvent.byteAt x = Config.bufferDraw (s.draws + 1) x := rfl

@[simp] theorem State.length_bytes (s : State) (a n : Nat) : (s.bytes a n).length = n := by
  induction n generalizing a with
  | zero => rfl
  | succ n ih => simp [State.bytes, ih]

/-- `bytes(a, n)` lists `buf[a], ..., buf[a+n−1]` in order (R10). -/
@[simp] theorem State.getElem_bytes (s : State) (a n k : Nat) (h : k < (s.bytes a n).length) :
    (s.bytes a n)[k] = s.byteAt (a + k) := by
  induction n generalizing a k with
  | zero => simp [State.bytes] at h
  | succ n ih =>
    cases k with
    | zero => simp [State.bytes]
    | succ k =>
      simp only [State.bytes, List.getElem_cons_succ, ih]
      congr 1
      omega

/-- Two states that agree on a range read the same bytes there. -/
theorem State.bytes_congr {s s' : State} {a n : Nat} (h : ∀ x, a ≤ x → x < a + n → s.byteAt x = s'.byteAt x) :
    s.bytes a n = s'.bytes a n := by
  induction n generalizing a with
  | zero => rfl
  | succ n ih =>
    simp only [State.bytes]
    rw [h a (by omega) (by omega), ih fun x hx hx' => h x (by omega) (by omega)]

/-- Two states that agree on a range read the same little-endian value there. -/
theorem State.memRead_congr {s s' : State} {a n : Nat} (h : ∀ x, a ≤ x → x < a + n → s.byteAt x = s'.byteAt x) :
    s.memRead a n = s'.memRead a n := by
  induction n generalizing a with
  | zero => rfl
  | succ n ih =>
    simp only [State.memRead]
    rw [h a (by omega) (by omega), ih fun x hx hx' => h x (by omega) (by omega)]

/-! ### The common part of a command -/

/-- Everything `runCommand` can answer as a next state (R112). -/
theorem runCommand_next {i : Instr} {s t : State} {body : Pending → State}
    (h : runCommand i s body = .next t) :
    s.cfg.wf = true ∧ ∃ p, s.pending = some p ∧
      ((inRange s.cfg.bufSize p i = true ∧ t = body p)
        ∨ (inRange s.cfg.bufSize p i = false ∧ t = s.complete .truncated)) := by
  unfold runCommand at h
  split at h
  · next hwf =>
    refine ⟨hwf, ?_⟩
    split at h
    · cases h
    · next p hp =>
      refine ⟨p, hp, ?_⟩
      split at h
      · next hr => exact .inl ⟨hr, by injection h with h; exact h.symm⟩
      · next hr => exact .inr ⟨by simpa using hr, by injection h with h; exact h.symm⟩
  · cases h

/-- In range, a command answers its own part (R112). -/
theorem runCommand_inRange {i : Instr} {s : State} {body : Pending → State} {p : Pending}
    (hwf : s.cfg.wf = true) (hp : s.pending = some p) (hr : inRange s.cfg.bufSize p i = true) :
    runCommand i s body = .next (body p) := by
  simp [runCommand, hwf, hp, hr]

/-- Out of range, a command completes with CODE 2 (R114). -/
theorem runCommand_truncated {i : Instr} {s : State} {body : Pending → State} {p : Pending}
    (hwf : s.cfg.wf = true) (hp : s.pending = some p) (hr : inRange s.cfg.bufSize p i = false) :
    runCommand i s body = .next (s.complete .truncated) := by
  simp [runCommand, hwf, hp, hr]

/-- With legal parameters and PENDING non-empty, every command answers a next state. -/
theorem exec_completes (i : Instr) {s : State} {p : Pending} (hwf : s.cfg.wf = true) (hp : s.pending = some p) :
    ∃ t, exec i s = .next t := by
  cases i <;>
    simp only [exec, execCrc32Calc, execCrc32Check, execCrc16Calc, execCrc16Check, execBcdDecode, execPbDecode,
      runCommand, hwf, hp, if_true] <;>
    split <;> exact ⟨_, rfl⟩

/-! ### The end of BCD_DECODE -/

/-- Both ends of a BCD_DECODE (R178). -/
theorem State.finishBcd_cases (s : State) (f : BcdFields) (bd bdoy bt : Bool) :
    ((bd || bdoy || bt) = true ∧ s.finishBcd f bd bdoy bt =
      { s with
        status := { s.status with
          bcdOk := false, bcdBadDigit := bd, bcdBadDoy := bdoy, bcdBadTime := bt
          code := .invalidBcd, err := true, done := true, busy := false }
        pending := none })
    ∨ ((bd || bdoy || bt) = false ∧ s.finishBcd f bd bdoy bt =
      { s with
        status := { s.status with
          bcdOk := true, bcdBadDigit := false, bcdBadDoy := false, bcdBadTime := false
          code := .ok, done := true, busy := false }
        ts := timestampOf s.cfg f
        pending := none }) := by
  cases hb : (bd || bdoy || bt)
  · right
    simp only [Bool.or_eq_false_iff] at hb
    obtain ⟨⟨rfl, rfl⟩, rfl⟩ := hb
    simp [State.finishBcd, State.complete, Status.complete]
  · left
    simp [State.finishBcd, State.complete, Status.complete, hb]

/-! ### What every command leaves alone -/

/-- Everything BCD_DECODE can answer as a next state (R178): TRUNCATED, a failed decode, or a timestamp. -/
theorem execBcdDecode_next {s t : State} (h : execBcdDecode s = .next t) :
    s.cfg.wf = true ∧ ∃ p, s.pending = some p ∧
      ((inRange s.cfg.bufSize p .bcdDecode = false ∧ t = s.complete .truncated)
        ∨ (inRange s.cfg.bufSize p .bcdDecode = true ∧
          ∃ ns f bd bdoy bt, ns = nibbles (s.bytes p.addr.toNat 7) ∧ f = bcdFields ns ∧ bd = badDigit ns
            ∧ bdoy = (!bd && badDoy s.cfg f) ∧ bt = (!bd && badTime s.cfg f)
            ∧ t = s.finishBcd f bd bdoy bt)) := by
  obtain ⟨hwf, p, hp, ⟨hr, ht⟩ | ⟨hr, ht⟩⟩ := runCommand_next h
  · exact ⟨hwf, p, hp, .inr ⟨hr, _, _, _, _, _, rfl, rfl, rfl, rfl, rfl, ht⟩⟩
  · exact ⟨hwf, p, hp, .inl ⟨hr, ht⟩⟩

/-- Whatever command runs and however it ends, it completes (R113) and leaves the operand registers, CTRL, LAST_CMD,
OVERRUN, the parameters and the host's side as they were (R222). -/
theorem exec_frame {i : Instr} {s t : State} (h : exec i s = .next t) :
    t.cfg = s.cfg ∧ t.ie = s.ie ∧ t.lastCmd = s.lastCmd ∧ t.addr = s.addr ∧ t.len = s.len ∧ t.dst = s.dst
      ∧ t.draws = s.draws ∧ t.program = s.program ∧ t.turns = s.turns ∧ t.reads = s.reads ∧ t.pending = none
      ∧ t.status.busy = false ∧ t.status.done = true ∧ t.status.overrun = s.status.overrun
      ∧ t.status.err = (s.status.err || t.status.code != .ok) := by
  cases i
  case bcdDecode =>
    obtain ⟨_, p, _, ⟨_, rfl⟩ | ⟨_, _, f, bd, bdoy, bt, _, _, _, _, _, rfl⟩⟩ := execBcdDecode_next h
    · simp
    · rcases s.finishBcd_cases f bd bdoy bt with ⟨_, h⟩ | ⟨_, h⟩ <;> simp [h]
  all_goals
    obtain ⟨_, p, _, ⟨_, rfl⟩ | ⟨_, rfl⟩⟩ := runCommand_next h <;> simp

/-! ### The engine's turn and a turn of the machine -/

/-- Everything the engine's turn can answer as a next state (R112, R115). -/
theorem engineTurn_next {s t : State} (h : engineTurn s = .next t) :
    (s.pending = none ∧ t = s)
    ∨ (∃ p e, s.pending = some p ∧ decode p.word = .error e ∧ t = s.complete .illegal)
    ∨ (∃ p i, s.pending = some p ∧ decode p.word = .ok i ∧ exec i s = .next t) := by
  unfold engineTurn at h
  split at h
  · next hp => exact .inl ⟨hp, by injection h with h; exact h.symm⟩
  · next p hp =>
    split at h
    · next i hi => exact .inr (.inr ⟨p, i, hp, hi, h⟩)
    · next e he => exact .inr (.inl ⟨p, e, hp, he, by injection h with h; exact h.symm⟩)

/-- With legal parameters the engine's turn answers a next state (R112, R212). -/
theorem engineTurn_answers {s : State} (hwf : s.cfg.wf = true) : ∃ t, engineTurn s = .next t := by
  unfold engineTurn
  split
  · exact ⟨_, rfl⟩
  · next p hp =>
    split
    · next i _ => exact exec_completes i hwf hp
    · exact ⟨_, rfl⟩

/-- What every engine step on an accepted command writes of the handshake, and what it never writes (R113). -/
theorem engineTurn_frame {s t : State} {p : Pending} (hp : s.pending = some p) (h : engineTurn s = .next t) :
    t.pending = none ∧ t.status.busy = false ∧ t.status.done = true ∧ t.status.overrun = s.status.overrun
      ∧ t.ie = s.ie ∧ t.cfg = s.cfg ∧ t.status.err = (s.status.err || t.status.code != .ok)
      ∧ t.turns = s.turns ∧ t.program = s.program := by
  rcases engineTurn_next h with ⟨h0, _⟩ | ⟨_, _, _, _, rfl⟩ | ⟨_, i, _, _, h⟩
  · simp [hp] at h0
  · simp
  · have := exec_frame h
    tauto

/-- Everything one step can answer as a next state (R74, R111). -/
theorem step_next {s t : State} (h : step s = .next t) :
    s.cfg.wf = true ∧
      ((s.nextAgent = some .host ∧ t = hostTurn s.dropTurn)
        ∨ (s.nextAgent = some .engine ∧ engineTurn s.dropTurn = .next t)
        ∨ (s.nextAgent = some .reset ∧ t = s.dropTurn.resetEvent)
        ∨ (s.nextAgent = none ∧ t = s)) := by
  unfold step runTurn at h
  split at h
  · next hwf =>
    refine ⟨hwf, ?_⟩
    split at h
    · next ha => exact .inl ⟨ha, by injection h with h; exact h.symm⟩
    · next ha => exact .inr (.inl ⟨ha, h⟩)
    · next ha => exact .inr (.inr (.inl ⟨ha, by injection h with h; exact h.symm⟩))
    · next ha => exact .inr (.inr (.inr ⟨ha, by injection h with h; exact h.symm⟩))
  · cases h

end Sys2Proof.Machine
end

