-- ==== Sys2Proof/Laws/Bcd.lean ====
section
/-! SUPPORT. What the checks of BCD_DECODE say: the nibbles of a byte, the digit check and the two range checks as
propositions over naturals. -/

namespace Sys2Proof.Machine

/-- The low nibble of a byte (R171). -/
theorem lowNibble_toNat (b : Byte) : (b.extractLsb' 0 4).toNat = b.toNat % 16 := by simp

/-- The high nibble of a byte (R171). -/
theorem highNibble_toNat (b : Byte) : (b.extractLsb' 4 4).toNat = b.toNat / 16 := by
  have := b.isLt
  simp [Nat.shiftRight_eq_div_pow]
  omega

/-- The digit check fails exactly when some byte has a nibble above 9 (R173). -/
theorem badDigit_iff (bs : List Byte) :
    badDigit (nibbles bs) = true ↔ ∃ b ∈ bs, 9 < b.toNat % 16 ∨ 9 < b.toNat / 16 := by
  simp only [badDigit, nibbles, List.any_eq_true, List.mem_flatMap, decide_eq_true_eq, lowNibble_toNat,
    highNibble_toNat]
  constructor
  · rintro ⟨x, ⟨b, hb, hx⟩, h⟩
    simp only [List.mem_cons, List.not_mem_nil, or_false] at hx
    exact ⟨b, hb, by omega⟩
  · rintro ⟨b, hb, h | h⟩
    · exact ⟨_, ⟨b, hb, by simp⟩, h⟩
    · exact ⟨_, ⟨b, hb, by simp⟩, h⟩

/-- LEAP as a proposition over naturals (R175). -/
theorem leapYear_iff (year : Nat) :
    leapYear year = true ↔ (year % 4 = 0 ∧ year % 100 ≠ 0) ∨ year % 400 = 0 := by
  simp [leapYear]

/-- The day check (R177). -/
theorem badDoy_iff (cfg : Config) (f : BcdFields) :
    badDoy cfg f = true ↔ f.doy < 1 ∨ (if leapYear (fullYear cfg f.yy) then 366 else 365) < f.doy := by
  by_cases h : leapYear (fullYear cfg f.yy) = true <;> simp [badDoy, h]

/-- The time check (R177). -/
theorem badTime_iff (cfg : Config) (f : BcdFields) :
    badTime cfg f = true ↔ cfg.timeRangeCheck = true ∧ (23 < f.hour ∨ 59 < f.minute ∨ 59 < f.second) := by
  simp [badTime, or_assoc]

end Sys2Proof.Machine
end

