-- ==== Sys2Proof/Laws/Bus.lean ====
section
/-! SUPPORT. What a host access can do: window decode and lanes, the frame of a host write, its cases, and the cases of a host turn. -/

namespace Sys2Proof.Machine

/-! ### Window decode and lanes -/

/-- The word offset is the address rounded down to a multiple of 4 (R61, R65). -/
theorem wordOffset_eq (a : WinAddr) : wordOffset a = a.toNat / 4 * 4 := by
  have h : a &&& 0x1FFFC#17 = (a >>> 2) <<< 2 := by
    apply BitVec.eq_of_getLsbD_eq
    intro i hi
    rw [BitVec.getLsbD_and, BitVec.getLsbD_shiftLeft, BitVec.getLsbD_ushiftRight]
    by_cases h2 : i < 2
    · have : i = 0 ∨ i = 1 := by omega
      rcases this with rfl | rfl <;> simp
    · have hm : (0x1FFFC#17).getLsbD i = true := by
        interval_cases i <;> first | omega | decide
      simp [hm, h2, hi, show 2 + (i - 2) = i by omega]
  have ha := a.isLt
  rw [wordOffset, h]
  simp only [BitVec.toNat_shiftLeft, BitVec.toNat_ushiftRight, Nat.shiftRight_eq_div_pow, Nat.shiftLeft_eq]
  omega

/-- An address in a register's word reaches that register (R20, R61). -/
theorem target_reg {a : WinAddr} (r : Reg) (hlo : r.offset ≤ a.toNat) (hhi : a.toNat < r.offset + 4) :
    target a = .reg r := by
  have hw : wordOffset a = r.offset := by
    rw [wordOffset_eq]
    cases r <;> simp only [Reg.offset] at hlo hhi ⊢ <;> omega
  rw [target, hw]
  cases r <;> rfl

/-- Offset 0x1C and 0x40 to 0xFFFF are reserved space (R40). -/
theorem target_reserved {a : WinAddr}
    (h : 0x1C ≤ a.toNat ∧ a.toNat < 0x20 ∨ 0x40 ≤ a.toNat ∧ a.toNat < 0x10000) : target a = .reserved := by
  have hw := wordOffset_eq a
  have hne : ∀ r : Reg, r.offset ≠ wordOffset a := fun r => by
    cases r <;> simp only [Reg.offset] <;> omega
  have hf : Reg.all.find? (fun r => r.offset == wordOffset a) = none := by
    simp [List.find?_eq_none, hne]
  rw [target, if_neg (by omega), hf]

/-- From 0x10000 up an address reaches the buffer window, at the offset its word has past 0x10000 (R61, R62). -/
theorem target_window {a : WinAddr} {b : Nat} (h : a.toNat / 4 * 4 = 0x10000 + b) : target a = .window b := by
  have hw := wordOffset_eq a
  rw [target, if_pos (by omega), hw, h, Nat.add_sub_cancel_left]

/-- Every address is in some register's word, in reserved space or in the window (R20, R40, R61). -/
theorem target_cases (a : WinAddr) :
    (∃ r : Reg, r.offset ≤ a.toNat ∧ a.toNat < r.offset + 4 ∧ target a = .reg r)
    ∨ ((0x1C ≤ a.toNat ∧ a.toNat < 0x20 ∨ 0x40 ≤ a.toNat ∧ a.toNat < 0x10000) ∧ target a = .reserved)
    ∨ ∃ b, a.toNat / 4 * 4 = 0x10000 + b ∧ target a = .window b := by
  by_cases hw : 0x10000 ≤ a.toNat
  · obtain ⟨b, hb⟩ := Nat.exists_eq_add_of_le (show 0x10000 ≤ a.toNat / 4 * 4 by omega)
    exact .inr (.inr ⟨b, hb, target_window hb⟩)
  by_cases hr : 0x1C ≤ a.toNat ∧ a.toNat < 0x20 ∨ 0x40 ≤ a.toNat ∧ a.toNat < 0x10000
  · exact .inr (.inl ⟨hr, target_reserved hr⟩)
  · left
    have : ∃ r : Reg, r.offset = a.toNat / 4 * 4 := by
      have h16 : a.toNat / 4 < 7 ∨ 8 ≤ a.toNat / 4 ∧ a.toNat / 4 < 16 := by omega
      generalize a.toNat / 4 = q at h16
      have hq : q < 16 := by omega
      interval_cases q
      · exact ⟨.id, rfl⟩
      · exact ⟨.ctrl, rfl⟩
      · exact ⟨.status, rfl⟩
      · exact ⟨.cmd, rfl⟩
      · exact ⟨.addr, rfl⟩
      · exact ⟨.len, rfl⟩
      · exact ⟨.dst, rfl⟩
      · omega
      · exact ⟨.crc32Result, rfl⟩
      · exact ⟨.crc32Stored, rfl⟩
      · exact ⟨.crc16Result, rfl⟩
      · exact ⟨.crc16Stored, rfl⟩
      · exact ⟨.tsYear, rfl⟩
      · exact ⟨.tsDate, rfl⟩
      · exact ⟨.tsHms, rfl⟩
      · exact ⟨.tsMs, rfl⟩
    obtain ⟨r, h⟩ := this
    exact ⟨r, by omega, by omega, target_reg r (by omega) (by omega)⟩

/-- Bit `k` of a lane mask is lane `k / 8`'s strobe (R66). -/
theorem getLsbD_laneMask (strb : Strobe) {k : Nat} (hk : k < 32) :
    (laneMask strb).getLsbD k = strb.getLsbD (k / 8) := by
  have : ∀ (strb : Strobe) (k : Fin 32), (laneMask strb).getLsbD k = strb.getLsbD (k / 8) := by decide
  exact this strb ⟨k, hk⟩

/-- Bit `k` of a strobed word write: the data's where its lane is strobed, the old one elsewhere (R66). -/
theorem getLsbD_mergeLanes (old d : Word) (strb : Strobe) {k : Nat} (hk : k < 32) :
    (mergeLanes old d (laneMask strb) 0xFFFFFFFF#32).getLsbD k
      = if strb.getLsbD (k / 8) then d.getLsbD k else old.getLsbD k := by
  have h1 : (0xFFFFFFFF#32).getLsbD k = true := by
    have : ∀ k : Fin 32, (0xFFFFFFFF#32).getLsbD k = true := by decide
    exact this ⟨k, hk⟩
  simp only [mergeLanes, BitVec.getLsbD_or, BitVec.getLsbD_and, BitVec.getLsbD_not, getLsbD_laneMask strb hk, h1, hk]
  cases strb.getLsbD (k / 8) <;> simp

/-- A write to CTRL sets IE from bit 0 where lane 0 is strobed (R22, R66). -/
theorem writeCtrl_bit (ie : Bool) (d : Word) (strb : Strobe) :
    (mergeLanes (ctrlWord ie) d (laneMask strb) 1#32).getLsbD 0
      = if strb.getLsbD 0 then d.getLsbD 0 else ie := by
  have hc : (ctrlWord ie).getLsbD 0 = ie := by cases ie <;> decide
  simp only [mergeLanes, BitVec.getLsbD_or, BitVec.getLsbD_and, BitVec.getLsbD_not,
    getLsbD_laneMask strb (show 0 < 32 by decide), hc]
  cases strb.getLsbD 0 <;> simp

/-! ### Host accesses -/

/-- Everything a host write can do (R66, R116). -/
theorem State.hostWrite_cases (s : State) (a : WinAddr) (d : Word) (strb : Strobe) :
    (strb = 0#4 ∧ s.hostWrite a d strb = s)
    ∨ (strb ≠ 0#4 ∧ s.status.busy = true ∧ (target a).heldWhileBusy = true
        ∧ s.hostWrite a d strb = { s with status := s.status.drop })
    ∨ (strb ≠ 0#4 ∧ (s.status.busy = true → (target a).heldWhileBusy = false)
        ∧ ((∃ r, target a = .reg r ∧ s.hostWrite a d strb = s.writeReg r d (laneMask strb))
          ∨ (target a = .reserved ∧ s.hostWrite a d strb = s)
          ∨ (∃ b, target a = .window b
              ∧ s.hostWrite a d strb = { s with buf := writeWindow s.cfg.bufSize s.buf b d strb }))) := by
  unfold State.hostWrite
  split
  · next h => exact .inl ⟨h, rfl⟩
  · next h =>
    split
    · next hb =>
      simp only [Bool.and_eq_true] at hb
      exact .inr (.inl ⟨h, hb.1, hb.2, rfl⟩)
    · next hb =>
      refine .inr (.inr ⟨h, fun hbusy => by simpa [hbusy] using hb, ?_⟩)
      split
      · next r hr => exact .inl ⟨r, hr, rfl⟩
      · next hr => exact .inr (.inl ⟨hr, rfl⟩)
      · next b hr => exact .inr (.inr ⟨b, hr, rfl⟩)

/-- What no register write changes (R41, R66, R124): the parameters, the results, the buffer, CODE, the validity flags,
and the host's side. -/
theorem State.writeReg_frame (s : State) (r : Reg) (d m : Word) :
    let t := s.writeReg r d m
    t.cfg = s.cfg ∧ t.crc32Result = s.crc32Result ∧ t.crc32Stored = s.crc32Stored
      ∧ t.crc16Result = s.crc16Result ∧ t.crc16Stored = s.crc16Stored ∧ t.ts = s.ts ∧ t.buf = s.buf
      ∧ t.draws = s.draws ∧ t.program = s.program ∧ t.turns = s.turns ∧ t.reads = s.reads
      ∧ t.status.code = s.status.code ∧ t.status.crc32Ok = s.status.crc32Ok
      ∧ t.status.crc16Ok = s.status.crc16Ok ∧ t.status.bcdOk = s.status.bcdOk
      ∧ t.status.bcdBadDigit = s.status.bcdBadDigit ∧ t.status.bcdBadDoy = s.status.bcdBadDoy
      ∧ t.status.bcdBadTime = s.status.bcdBadTime := by
  cases r <;> simp [State.writeReg]

/-- What no host write changes: as `State.writeReg_frame`, but for the buffer. -/
theorem State.hostWrite_frame (s : State) (a : WinAddr) (d : Word) (strb : Strobe) :
    let t := s.hostWrite a d strb
    t.cfg = s.cfg ∧ t.crc32Result = s.crc32Result ∧ t.crc32Stored = s.crc32Stored
      ∧ t.crc16Result = s.crc16Result ∧ t.crc16Stored = s.crc16Stored ∧ t.ts = s.ts
      ∧ t.draws = s.draws ∧ t.program = s.program ∧ t.turns = s.turns ∧ t.reads = s.reads
      ∧ t.status.code = s.status.code ∧ t.status.crc32Ok = s.status.crc32Ok
      ∧ t.status.crc16Ok = s.status.crc16Ok ∧ t.status.bcdOk = s.status.bcdOk
      ∧ t.status.bcdBadDigit = s.status.bcdBadDigit ∧ t.status.bcdBadDoy = s.status.bcdBadDoy
      ∧ t.status.bcdBadTime = s.status.bcdBadTime := by
  intro t
  rcases s.hostWrite_cases a d strb with ⟨_, h⟩ | ⟨_, _, _, h⟩ | ⟨_, _, ⟨r, _, h⟩ | ⟨_, h⟩ | ⟨b, _, h⟩⟩
  · simp [t, h]
  · simp [t, h]
  · have hf := s.writeReg_frame r d (laneMask strb)
    simp only [t, h]
    tauto
  · simp [t, h]
  · simp [t, h]

@[simp] theorem State.hostWrite_cfg (s : State) (a : WinAddr) (d : Word) (strb : Strobe) :
    (s.hostWrite a d strb).cfg = s.cfg := (s.hostWrite_frame a d strb).1

@[simp] theorem State.hostWrite_ts (s : State) (a : WinAddr) (d : Word) (strb : Strobe) :
    (s.hostWrite a d strb).ts = s.ts := (s.hostWrite_frame a d strb).2.2.2.2.2.1

@[simp] theorem State.hostWrite_draws (s : State) (a : WinAddr) (d : Word) (strb : Strobe) :
    (s.hostWrite a d strb).draws = s.draws := (s.hostWrite_frame a d strb).2.2.2.2.2.2.1

@[simp] theorem State.hostWrite_turns (s : State) (a : WinAddr) (d : Word) (strb : Strobe) :
    (s.hostWrite a d strb).turns = s.turns := (s.hostWrite_frame a d strb).2.2.2.2.2.2.2.2.1

/-- Everything a host turn can do (R96, R111): nothing, one write, or one operation that reads. -/
theorem hostTurn_cases (s : State) :
    hostTurn s = s
    ∨ (∃ off d strb rest, s.program = .wr off d strb :: rest
        ∧ hostTurn s = { s.hostWrite off d strb with program := rest })
    ∨ (∃ op rest reads, s.program = op :: rest ∧ hostTurn s = { s with program := rest, reads := reads }) := by
  unfold hostTurn
  split
  · exact .inl rfl
  · next off d strb rest h => exact .inr (.inl ⟨off, d, strb, rest, h, rfl⟩)
  · next off rest h => exact .inr (.inr ⟨_, _, _, h, rfl⟩)
  · next off mask val rest h =>
    split
    · exact .inr (.inr ⟨_, _, _, h, rfl⟩)
    · exact .inl rfl
  · next rest h =>
    split
    · exact .inr (.inr ⟨_, _, _, h, rfl⟩)
    · exact .inl rfl

end Sys2Proof.Machine
end

