-- ==== Sys2Proof/Laws/Lanes.lean ====
section
/-! SUPPORT. Words as four byte lanes: the fields of a command word, the lanes of a word built from bytes, and the word
built from its lanes. -/

namespace Sys2Proof

/-- OPCODE as a number (R90). -/
theorem opcodeOf_toNat (c : Word) : (opcodeOf c).toNat = c.toNat % 256 := by simp [opcodeOf]

/-- RSVD as a number (R90). -/
theorem rsvdOf_toNat (c : Word) : (rsvdOf c).toNat = c.toNat / 256 := by
  have := c.isLt
  simp [rsvdOf, Nat.shiftRight_eq_div_pow]
  omega

end Sys2Proof

namespace Sys2Proof.Machine

/-- Appending a byte below a number is adding it. -/
theorem shift_or_byte (x : Nat) (b : Byte) : (x * 2 ^ 8 ||| b.toNat) = x * 2 ^ 8 + b.toNat := by
  rw [Nat.mul_comm, ← Nat.two_pow_add_eq_or_of_lt b.isLt]

/-- Four bytes as one number, highest lane first. -/
theorem toNat_fourBytes (a b c d : Byte) :
    (a ++ b ++ c ++ d : BitVec (8 + 8 + 8 + 8)).toNat
      = ((a.toNat * 256 + b.toNat) * 256 + c.toNat) * 256 + d.toNat := by
  simp only [BitVec.toNat_append, Nat.shiftLeft_eq, shift_or_byte]
  norm_num

/-- A byte lane as a number (R68). -/
theorem lane_toNat (d : Word) (k : Nat) : (lane d k).toNat = d.toNat / 2 ^ (8 * k) % 256 := by
  simp [lane, Nat.shiftRight_eq_div_pow]

/-- The lanes of a word built from four bytes (R68). -/
theorem lane_fourBytes (a b c d : Byte) {k : Nat} (hk : k < 4) :
    lane (a ++ b ++ c ++ d : BitVec (8 + 8 + 8 + 8)) k
      = if k = 0 then d else if k = 1 then c else if k = 2 then b else a := by
  have ha := a.isLt
  have hb := b.isLt
  have hc := c.isLt
  have hd := d.isLt
  have f : ∀ j, (lane (a ++ b ++ c ++ d : BitVec (8 + 8 + 8 + 8)) j).toNat
      = (((a.toNat * 256 + b.toNat) * 256 + c.toNat) * 256 + d.toNat) / 2 ^ (8 * j) % 256 := fun j => by
    rw [lane_toNat, ← toNat_fourBytes]
  obtain rfl | rfl | rfl | rfl : k = 0 ∨ k = 1 ∨ k = 2 ∨ k = 3 := by omega
  all_goals
    apply BitVec.eq_of_toNat_eq
    rw [f]
    simp
    omega

/-- A word is built from its own lanes (R68). -/
theorem fourBytes_lanes (d : Word) :
    (lane d 3 ++ lane d 2 ++ lane d 1 ++ lane d 0 : BitVec (8 + 8 + 8 + 8)) = d := by
  have := d.isLt
  apply BitVec.eq_of_toNat_eq
  rw [toNat_fourBytes]
  simp only [lane_toNat]
  norm_num
  omega

/-- The little-endian value of four buffer bytes (R67). -/
theorem State.memRead_four (s : State) (a : Nat) :
    s.memRead a 4
      = (s.byteAt (a + 3) ++ s.byteAt (a + 2) ++ s.byteAt (a + 1) ++ s.byteAt a : BitVec (8 + 8 + 8 + 8)) := by
  apply BitVec.eq_of_toNat_eq
  show ((((0#0 ++ s.byteAt (a + 1 + 1 + 1) : BitVec (0 + 8)) ++ s.byteAt (a + 1 + 1) : BitVec (0 + 8 + 8))
    ++ s.byteAt (a + 1) : BitVec (0 + 8 + 8 + 8)) ++ s.byteAt a : BitVec (0 + 8 + 8 + 8 + 8)).toNat = _
  simp only [BitVec.toNat_append]
  simp

/-- The seven bytes BCD_DECODE reads (R172). -/
theorem State.bytes_seven (s : State) (a : Nat) :
    s.bytes a 7 = [s.byteAt a, s.byteAt (a + 1), s.byteAt (a + 2), s.byteAt (a + 3), s.byteAt (a + 4),
      s.byteAt (a + 5), s.byteAt (a + 6)] := by
  simp [State.bytes]

/-- A write to STATUS clears a flag where its strobed data bit is 1 (R23, R66). -/
theorem Status.clear_strobed (st : Status) (d : Word) (strb : Strobe) :
    st.clear (d &&& laneMask strb) =
      { st with
        done := st.done && !(strb.getLsbD 0 && d.getLsbD 1)
        err := st.err && !(strb.getLsbD 0 && d.getLsbD 2)
        overrun := st.overrun && !(strb.getLsbD 0 && d.getLsbD 3) } := by
  unfold Status.clear
  simp only [BitVec.getLsbD_and]
  rw [getLsbD_laneMask _ (by omega), getLsbD_laneMask _ (by omega), getLsbD_laneMask _ (by omega)]
  simp [Bool.and_comm]

/-- A host write to a register reaches an address of that register's word (R61). -/
theorem target_eq_reg {a : WinAddr} {r : Reg} (h : target a = .reg r) :
    r.offset ≤ a.toNat ∧ a.toNat < r.offset + 4 := by
  rcases target_cases a with ⟨r', h1, h2, h3⟩ | ⟨_, h3⟩ | ⟨b, _, h3⟩ <;> rw [h] at h3 <;> cases h3
  exact ⟨h1, h2⟩

end Sys2Proof.Machine
end

