-- ==== Sys2Proof/Laws/PerInstr.lean ====
section
/-! SUPPORT. Statements about every instruction as syntax, one lemma a constructor. -/

namespace Sys2Proof.Laws.LegalEncoding

/-- The instruction's command word is legal (R92) and the instruction is well formed. -/
def Statement (i : Instr) : Prop := legalWord (encode i) = true ∧ i.wf = true

theorem crc32Calc : Statement .crc32Calc := by constructor <;> decide
theorem crc32Check : Statement .crc32Check := by constructor <;> decide
theorem crc16Calc : Statement .crc16Calc := by constructor <;> decide
theorem crc16Check : Statement .crc16Check := by constructor <;> decide
theorem bcdDecode : Statement .bcdDecode := by constructor <;> decide
theorem pbDecode : Statement .pbDecode := by constructor <;> decide

end Sys2Proof.Laws.LegalEncoding
end

