-- ==== Sys2Proof/Tests/Slice0.lean ====
section
/-! SUPPORT. Tests of the model against the spec's printed words and vectors (95_test_vectors.md), and a witness for every
statement that has hypotheses. -/

namespace Sys2Proof.Tests

open Sys2Proof.Machine Sys2Proof.Safety

/-- The next state of an outcome, if it is one. -/
def next? : Host.Outcome State Fault Refusal → Option State
  | .next s => some s
  | .fault _ => none
  | .refused _ => none

/-- A machine after reset with a 64-byte buffer in which `bs` stands from offset `a`. -/
def stage (a : Nat) (bs : List Byte) : State :=
  { State.reset with cfg := { bufSize := 64 }, buf := Memory.writeAll [] a bs }

/-- `s` with ADDR, LEN and DST set and command word `c` accepted. -/
def issue (s : State) (c a l t : Word) : State := { s with addr := a, len := l, dst := t }.accept c

/-- STATUS as a host reads it after one step, with one more thing. -/
def outcome {α : Type} (s : State) (f : State → α) : Option (Word × α) :=
  (next? (step s)).map fun t => (t.readReg .status, f t)

/-- ASCII "123456789" (V6). -/
def digits : List Byte := [0x31#8, 0x32#8, 0x33#8, 0x34#8, 0x35#8, 0x36#8, 0x37#8, 0x38#8, 0x39#8]

/-- The buffer preset of 95_test_vectors.md section 2.2. -/
def preset : State := stage 0 (digits ++ [0xB1#8, 0x29#8, 0x26#8, 0x39#8, 0xF4#8, 0xCB#8])

/-- The bytes of B1. -/
def stamp : List Byte := [0x89#8, 0x67#8, 0x45#8, 0x23#8, 0x51#8, 0x04#8, 0x23#8]

/-- The bytes of B26: digit n11 is 0xA. -/
def badStamp : List Byte := [0x89#8, 0x67#8, 0x45#8, 0x23#8, 0x51#8, 0xA4#8, 0x23#8]

/-! ### Well-formedness: every check refuses an ill-formed term (R7, R92) -/

theorem test_wf_defaults : ({} : Config).wf = true := by decide
theorem test_wf_edges : ({ bufSize := 64, yearBase := 65436 } : Config).wf = true := by decide
theorem test_wf_bufSize_not_multiple_of_4 : ({ bufSize := 66 } : Config).wf = false := by decide
theorem test_wf_bufSize_too_small : ({ bufSize := 60 } : Config).wf = false := by decide
theorem test_wf_bufSize_too_large : ({ bufSize := 65540 } : Config).wf = false := by decide
theorem test_wf_yearBase_too_large : ({ yearBase := 65437 } : Config).wf = false := by decide
theorem test_legalWord_rsvd : legalWord 0x00000101#32 = false := by decide
theorem test_legalWord_opcode_zero : legalWord 0x00000000#32 = false := by decide
theorem test_legalWord_opcode_seven : legalWord 0x00000007#32 = false := by decide

/-! ### Decoding: RSVD [31:8] then OPCODE [7:0], written out bit by bit (30_encoding.md section 3) -/

theorem test_decode_crc32Calc : decode (0b000000000000000000000000#24 ++ 0b00000001#8) = .ok .crc32Calc := by rfl
theorem test_decode_crc32Check : decode (0b000000000000000000000000#24 ++ 0b00000010#8) = .ok .crc32Check := by rfl
theorem test_decode_crc16Calc : decode (0b000000000000000000000000#24 ++ 0b00000011#8) = .ok .crc16Calc := by rfl
theorem test_decode_crc16Check : decode (0b000000000000000000000000#24 ++ 0b00000100#8) = .ok .crc16Check := by rfl
theorem test_decode_bcdDecode : decode (0b000000000000000000000000#24 ++ 0b00000101#8) = .ok .bcdDecode := by rfl
theorem test_decode_pbDecode : decode (0b000000000000000000000000#24 ++ 0b00000110#8) = .ok .pbDecode := by rfl
/-- E4: RSVD is tested before OPCODE. -/
theorem test_decode_rsvd_first : decode 0x00000101#32 = .error .reservedBitsSet := by rfl
/-- E3. -/
theorem test_decode_unknown_opcode : decode 0x000000FF#32 = .error .unknownOpcode := by rfl
/-- The table's six words, and a word wider than a command (R95). -/
theorem test_decodeTableWord :
    [1, 2, 3, 4, 5, 6].map (decodeTableWord 32)
        = [some .crc32Calc, some .crc32Check, some .crc16Calc, some .crc16Check, some .bcdDecode, some .pbDecode]
      ∧ decodeTableWord 40 1 = none := by decide
/-- The step after `withFetchWord` runs the word's instruction: CRC32_CALC of the empty range (K5). -/
theorem test_withFetchWord :
    outcome (State.reset.withFetchWord 32 1) (·.crc32Result) = some (0x00000002#32, 0x00000000#32) := by
  decide +kernel

/-! ### The commands, on the vectors of 95_test_vectors.md -/

/-- K1. -/
theorem test_crc32Calc_digits :
    outcome (issue preset 1 0 9 0) (·.crc32Result) = some (0x00000002#32, 0xCBF43926#32) := by decide +kernel
/-- E6: the sum 2^32 does not wrap. -/
theorem test_crc32Calc_no_wrap :
    outcome (issue State.reset 1 0xFFFFFFFF 1 0) (·.crc32Result) = some (0x00000026#32, 0#32) := by decide +kernel
/-- K10. -/
theorem test_crc32Check_match :
    outcome (issue (stage 0 (digits ++ [0x26#8, 0x39#8, 0xF4#8, 0xCB#8])) 2 0 9 0)
        (fun t => (t.crc32Result, t.crc32Stored))
      = some (0x00000102#32, 0xCBF43926#32, 0xCBF43926#32) := by decide +kernel
/-- K4: a mismatch is no error. -/
theorem test_crc32Check_mismatch :
    outcome (issue preset 2 0 9 0) (fun t => (t.crc32Result, t.crc32Stored))
      = some (0x00000002#32, 0xCBF43926#32, 0x392629B1#32) := by decide +kernel
/-- K2. -/
theorem test_crc16Calc_digits :
    outcome (issue preset 3 0 9 0) (·.crc16Result) = some (0x00000002#32, 0x29B1#16) := by decide +kernel
/-- E7. -/
theorem test_crc16Calc_no_wrap :
    outcome (issue State.reset 3 1 0xFFFFFFFF 0) (·.crc16Result) = some (0x00000026#32, 0#16) := by decide +kernel
/-- K3. -/
theorem test_crc16Check_match :
    outcome (issue preset 4 0 9 0) (fun t => (t.crc16Result, t.crc16Stored))
      = some (0x00000202#32, 0x29B1#16, 0x29B1#16) := by decide +kernel
/-- K9: the stored value is little-endian. -/
theorem test_crc16Check_bytes_swapped :
    outcome (issue (stage 0 (digits ++ [0x29#8, 0xB1#8])) 4 0 9 0) (fun t => (t.crc16Result, t.crc16Stored))
      = some (0x00000002#32, 0x29B1#16, 0xB129#16) := by decide +kernel
/-- B1 and B34: LEN is ignored. -/
theorem test_bcdDecode_b1 :
    outcome (issue (stage 0 stamp) 5 0 0xFFFFFFFF 0)
        (fun t => (t.readReg .tsYear, t.readReg .tsDate, t.readReg .tsHms, t.readReg .tsMs))
      = some (0x00000402#32, 0x001707E7#32, 0x0E02002D#32, 0x0038220C#32, 0x00000315#32) := by decide +kernel
/-- B26: a bad digit, and the day is not checked. -/
theorem test_bcdDecode_b26 :
    outcome (issue (stage 0 badStamp) 5 0 0 0) (fun t => t.readReg .tsDate) = some (0x00000836#32, 0#32) := by
  decide +kernel
/-- P-3, moved to offset 0x30: every output from the bytes as they stood. -/
theorem test_pbDecode_overlap :
    outcome (issue (stage 0x30 [0xC1#8, 0xC2#8, 0xC3#8]) 6 0x30 3 0x31) (fun t => t.bytes 0x30 4)
      = some (0x00000002#32, [0xC1#8, 0x41#8, 0x42#8, 0x43#8]) := by decide +kernel
/-- P-6. -/
theorem test_pbDecode_destination_out_of_range :
    outcome (issue State.reset 6 0 4 0xFFFD) (·.buf) = some (0x00000026#32, []) := by decide +kernel

/-! ### The bus, on the vectors of 95_test_vectors.md section 3.3 -/

/-- E16: the lanes not strobed are 0, and the word is issued. -/
theorem test_cmd_strobed_lane :
    (State.reset.hostWrite 0x0C 0x00000201#32 0b0010#4).pending = some ⟨0x00000200#32, 0#32, 0#32, 0#32⟩ := by decide
/-- E21: the acceptance clears DONE and keeps ERR and CODE. -/
theorem test_accept_keeps_err :
    (({ State.reset with status := { done := true, err := true, code := .illegal } }).hostWrite 0x0C 1#32 0xF#4
      ).hostRead 0x08 = 0x00000015#32 := by decide
/-- E19: DONE, ERR and OVERRUN are cleared, CODE stays. -/
theorem test_status_write_one_to_clear :
    (({ State.reset with status := { done := true, err := true, overrun := true, code := .illegal } }).hostWrite
      0x08 0xFFFFFFFF#32 0xF#4).hostRead 0x08 = 0x00000010#32 := by decide
/-- E25. -/
theorem test_addr_strobes :
    (({ State.reset with addr := 0x12345678#32 }).hostWrite 0x10 0x0000AB00#32 0b0010#4).hostRead 0x10
      = 0x1234AB78#32 := by decide
/-- E26. -/
theorem test_window_word :
    (State.reset.hostWrite 0x10010 0x44434241#32 0xF#4).bytes 0x10 4 = [0x41#8, 0x42#8, 0x43#8, 0x44#8] := by decide
/-- E27. -/
theorem test_window_absent_lanes :
    (stage 0 []).hostWrite 0x10040 0x11223344#32 0xF#4 = stage 0 [] ∧ (stage 0 []).hostRead 0x10040 = 0#32 := by
  decide
/-- E28. -/
theorem test_write_while_busy_dropped :
    let t := (issue State.reset 3 0 0 0).hostWrite 0x10 5#32 0xF#4
    t.addr = 0#32 ∧ t.hostRead 0x08 = 0x00000009#32 := by decide
/-- P3 step 7. -/
theorem test_wrbuf_expansion :
    opWrbuf 0x200 [0x89#8, 0x67#8, 0x45#8, 0x23#8, 0x51#8, 0x04#8, 0xA3#8]
      = [.wr 0x10200 0x23456789#32 0xF#4, .wr 0x10204 0x00A30451#32 0x7#4] := by decide
/-- `op` and `cmd` of P1 steps 2 to 4. -/
theorem test_header_check_expansion :
    callHeaderCheck 0 = [.wr 0x10 0#32 0xF#4, .wr 0x14 0x3C#32 0xF#4, .wr 0x0C 2#32 0xF#4] := by decide

/-- The timestamps of P2's block at 0x40 (steps 6, 7 and 9), and those of a type 2 block there (R98). -/
theorem test_timestamp_expansion :
    callTimestamp 0x40 .type1 .first = [.wr 0x10 0x4C#32 0xF#4, .wr 0x14 0#32 0xF#4, .wr 0x0C 5#32 0xF#4]
      ∧ (callTimestamp 0x40 .type1 .second).head? = some (.wr 0x10 0x53#32 0xF#4)
      ∧ (callTimestamp 0x40 .type2 .first).head? = some (.wr 0x10 0x4B#32 0xF#4)
      ∧ (callTimestamp 0x40 .type2 .second).head? = some (.wr 0x10 0x52#32 0xF#4) := by decide

/-! ### Witnesses: each meets the hypotheses of the statement it names, a clause at a time, at the edge of its range -/

/-- A command in flight with the parameters' smallest buffer. -/
def flying (c a l t : Word) : State := issue (stage 57 stamp) c a l t

/-- The PENDING of `flying`. -/
def shot (c a l t : Word) : Pending := ⟨c, a, l, t⟩

/-- A machine whose host has `ops` still to do. -/
def driven (ops : List HostOp) : State := { State.reset with program := ops }

theorem witness_IllegalWordCompletesWithCodeOne :
    (flying 0x100 0 0 0).pending = some (shot 0x100 0 0 0) ∧ (shot 0x100 0 0 0).word.toNat / 256 ≠ 0
      ∧ (flying 0 0 0 0).pending = some (shot 0 0 0 0) ∧ (shot 0 0 0 0).word.toNat % 256 = 0
      ∧ (flying 7 0 0 0).pending = some (shot 7 0 0 0) ∧ 7 ≤ (shot 7 0 0 0).word.toNat % 256 := by decide

theorem witness_StepRunsTheNextAgentsTurn :
    (flying 1 0 0 0).cfg.wf = true ∧ (flying 1 0 0 0).pending = some (shot 1 0 0 0)
      ∧ decode (shot 1 0 0 0).word = .ok .crc32Calc ∧ (flying 1 0 0 0).turns = [] := ⟨by decide, rfl, rfl, rfl⟩

theorem witness_StepRunsTheNextAgentsTurn_scheduled :
    let s := { flying 6 0 0 0 with turns := [.engine, .host] }
    s.cfg.wf = true ∧ s.pending = some (shot 6 0 0 0) ∧ decode (shot 6 0 0 0).word = .ok .pbDecode
      ∧ s.turns = .engine :: [.host] := ⟨by decide, rfl, rfl, rfl⟩

/-- The clauses of the engine's turn on any word, an illegal one here, and of the host's turn. -/
theorem witness_StepRunsTheNextAgentsTurn_others :
    (flying 7 0 0 0).turns = [] ∧ (flying 7 0 0 0).pending.isSome = true
      ∧ (driven [.wr 0x0C 1 0xF]).cfg.wf = true ∧ (driven [.wr 0x0C 1 0xF]).turns = []
      ∧ (driven [.wr 0x0C 1 0xF]).pending = none ∧ (driven [.wr 0x0C 1 0xF]).program ≠ []
      ∧ ({ flying 1 0 0 0 with turns := [.host, .engine] }).turns = .host :: [.engine] := by decide

theorem witness_StepAlwaysAnswersNext : (flying 1 0 0 0).cfg.wf = true := by decide

theorem witness_IllegalParametersAreRefused :
    (66 % 4 ≠ 0 ∧ 60 < 64 ∧ 65536 < 65540 ∧ 65436 < 65437)
      ∧ ({ State.reset with cfg := { bufSize := 66 } }).cfg.bufSize = 66
      ∧ ({ State.reset with cfg := { bufSize := 60 } }).cfg.bufSize = 60
      ∧ ({ State.reset with cfg := { bufSize := 65540 } }).cfg.bufSize = 65540
      ∧ ({ State.reset with cfg := { yearBase := 65437 } }).cfg.yearBase = 65437 := by decide

/-- Also for HandshakeInvariantKept, BufferInvariantKept, TimestampInvariantKept and BcdFlagInvariantKept. -/
theorem witness_ParametersNeverChange :
    ∃ t, step (flying 5 57 0 0) = .next t ∧ t.ts.year = 0x07E7#16 ∧ handshakeOk (flying 5 57 0 0) = true
      ∧ bufferOk (flying 5 57 0 0) = true ∧ tsOk (flying 5 57 0 0) = true
      ∧ bcdFlagsOk (flying 5 57 0 0).status = true := ⟨_, rfl, by decide +kernel, by decide, by decide, by decide, by decide⟩

/-- Both clauses, one byte apart: K7 and E13. Also for Crc16CalcResult. -/
theorem witness_Crc32CalcResult :
    (flying 1 64 0 0).cfg.wf = true ∧ (flying 1 64 0 0).pending = some (shot 1 64 0 0)
      ∧ (shot 1 64 0 0).addr.toNat + (shot 1 64 0 0).len.toNat ≤ (flying 1 64 0 0).cfg.bufSize
      ∧ (flying 1 0 65 0).pending = some (shot 1 0 65 0)
      ∧ (flying 1 0 65 0).cfg.bufSize < (shot 1 0 65 0).addr.toNat + (shot 1 0 65 0).len.toNat := by decide

/-- Both clauses, one byte apart: E10 and E8. -/
theorem witness_Crc32CheckResult :
    (flying 2 0 60 0).cfg.wf = true ∧ (flying 2 0 60 0).pending = some (shot 2 0 60 0)
      ∧ (shot 2 0 60 0).addr.toNat + (shot 2 0 60 0).len.toNat + 4 ≤ (flying 2 0 60 0).cfg.bufSize
      ∧ (flying 2 1 60 0).pending = some (shot 2 1 60 0)
      ∧ (flying 2 1 60 0).cfg.bufSize < (shot 2 1 60 0).addr.toNat + (shot 2 1 60 0).len.toNat + 4 := by decide

/-- Both clauses, one byte apart: E11 and E12. -/
theorem witness_Crc16CheckResult :
    (flying 4 62 0 0).cfg.wf = true ∧ (flying 4 62 0 0).pending = some (shot 4 62 0 0)
      ∧ (shot 4 62 0 0).addr.toNat + (shot 4 62 0 0).len.toNat + 2 ≤ (flying 4 62 0 0).cfg.bufSize
      ∧ (flying 4 63 0 0).pending = some (shot 4 63 0 0)
      ∧ (flying 4 63 0 0).cfg.bufSize < (shot 4 63 0 0).addr.toNat + (shot 4 63 0 0).len.toNat + 2 := by decide

/-- The accepting clause, on B1's bytes at the end of the buffer (B33), and the rejecting one, on B26's. -/
theorem witness_BcdDecodeOutcome :
    (flying 5 57 0 0).cfg.wf = true ∧ (flying 5 57 0 0).pending = some (shot 5 57 0 0)
      ∧ (shot 5 57 0 0).addr.toNat + 7 ≤ (flying 5 57 0 0).cfg.bufSize
      ∧ badDigit (nibbles ((flying 5 57 0 0).bytes 57 7)) = false
      ∧ badDoy {} (bcdFields (nibbles ((flying 5 57 0 0).bytes 57 7))) = false
      ∧ badTime {} (bcdFields (nibbles ((flying 5 57 0 0).bytes 57 7))) = false
      ∧ badDigit (nibbles ((issue (stage 57 badStamp) 5 57 0 0).bytes 57 7)) = true := by decide +kernel

/-- B1. -/
theorem witness_BcdRoundTrip :
    digitsFit 23 45 12 34 56 789
      ∧ (flying 5 57 0 0).bytes (shot 5 57 0 0).addr.toNat 7 = timestampBytes 23 45 12 34 56 789
      ∧ 45 ≤ (if gregorianLeap (2000 + 23) then 366 else 365)
      ∧ (12 ≤ 23 ∧ 34 ≤ 59 ∧ 56 ≤ 59) := by unfold digitsFit; decide +kernel

/-- B6: the last day of a leap year, at the edge of every range. -/
theorem witness_BcdRoundTrip_leap :
    let s := issue (stage 0 [0x99#8, 0x99#8, 0x95#8, 0x35#8, 0x62#8, 0x36#8, 0x24#8]) 5 0 0 0
    digitsFit 24 366 23 59 59 999 ∧ s.bytes 0 7 = timestampBytes 24 366 23 59 59 999
      ∧ 366 ≤ (if gregorianLeap (2000 + 24) then 366 else 365) := by unfold digitsFit; decide +kernel

/-- Both clauses: the byte at offset 5 of B26 is 0xA4, and B1 has no nibble above 9. -/
theorem witness_BcdBadDigitRejected :
    (∃ j, j < 7 ∧ (9 < ((issue (stage 57 badStamp) 5 57 0 0).byteAt (57 + j)).toNat % 16
        ∨ 9 < ((issue (stage 57 badStamp) 5 57 0 0).byteAt (57 + j)).toNat / 16))
      ∧ ∀ j, j < 7 → ((flying 5 57 0 0).byteAt (57 + j)).toNat % 16 ≤ 9
        ∧ ((flying 5 57 0 0).byteAt (57 + j)).toNat / 16 ≤ 9 :=
  ⟨⟨5, by decide +kernel⟩, by decide +kernel⟩

/-- B16: a day out of range. -/
theorem witness_BcdRangeChecksRejected_day :
    let s := issue (stage 0 [0x00#8, 0x00#8, 0x00#8, 0x00#8, 0x60#8, 0x36#8, 0x23#8]) 5 0 0 0
    s.cfg.wf = true ∧ digitsFit 23 366 0 0 0 0 ∧ s.bytes 0 7 = timestampBytes 23 366 0 0 0 0
      ∧ (if gregorianLeap (2000 + 23) then 366 else 365) < 366 := by unfold digitsFit; decide +kernel

/-- B32: 1900 is divisible by 4 and no leap year. B13's 2000 is one. -/
theorem witness_BcdRangeChecksRejected_century :
    let s := { issue (stage 0 [0x00#8, 0x00#8, 0x00#8, 0x00#8, 0x60#8, 0x36#8, 0x00#8]) 5 0 0 0 with
      cfg := { bufSize := 64, yearBase := 1900 } }
    s.cfg.wf = true ∧ digitsFit 0 366 0 0 0 0 ∧ s.bytes 0 7 = timestampBytes 0 366 0 0 0 0
      ∧ ¬ gregorianLeap (1900 + 0) ∧ gregorianLeap (2000 + 0) := by unfold digitsFit; decide +kernel

/-- B21: a second out of range. -/
theorem witness_BcdRangeChecksRejected_time :
    let s := issue (stage 0 [0x00#8, 0x00#8, 0x96#8, 0x35#8, 0x52#8, 0x04#8, 0x23#8]) 5 0 0 0
    s.cfg.timeRangeCheck = true ∧ digitsFit 23 45 23 59 60 0 ∧ s.bytes 0 7 = timestampBytes 23 45 23 59 60 0 := by
  unfold digitsFit; decide +kernel

/-- B2, B7 and B12: 29 February, the last day of a leap year, and 1 January. -/
theorem witness_CalendarMatchesMonthLengths :
    [(monthOf true 60, dayOf true 60), (monthOf true 366, dayOf true 366), (monthOf false 1, dayOf false 1)]
      = [(2, 29), (12, 31), (1, 1)] := by decide

/-- The completing clause at both ends of the buffer (P-5), and each way out of range by one byte (P-6). -/
theorem witness_PbDecodeBytes :
    (flying 6 0 0 64).pending = some (shot 6 0 0 64)
      ∧ ((shot 6 0 0 64).addr.toNat + (shot 6 0 0 64).len.toNat ≤ 64
        ∧ (shot 6 0 0 64).dst.toNat + (shot 6 0 0 64).len.toNat ≤ 64)
      ∧ 64 < (shot 6 61 4 0).addr.toNat + (shot 6 61 4 0).len.toNat
      ∧ 64 < (shot 6 0 4 61).dst.toNat + (shot 6 0 4 61).len.toNat
      ∧ (flying 6 0 4 61).cfg.bufSize = 64 := by decide

/-- Both clauses for every command. -/
theorem witness_RangeCheckTable :
    ∀ i : Instr, fits 64 (shot (encode i) 0 0 0) i ∧ ¬ fits 64 (shot (encode i) 58 7 58) i
      ∧ (flying (encode i) 58 7 58).pending = some (shot (encode i) 58 7 58) := by
  intro i; cases i <;> simp only [fits] <;> decide

/-- Also for InterruptFollowsCompletion and EngineStepIsDeterministic. -/
theorem witness_CompletionEffects :
    (flying 1 0 65 0).cfg.wf = true ∧ (flying 1 0 65 0).pending = some (shot 1 0 65 0)
      ∧ ∃ t, engineTurn (flying 1 0 65 0) = .next t ∧ t.status.code = .truncated := ⟨by decide, rfl, _, rfl, by decide⟩

/-- Both ways in which ERR is cleared. -/
theorem witness_CompletionEffects_sticky :
    (∃ t, step { driven [.wr 0x08 4 0xF] with status := { err := true } } = .next t ∧ t.status.err = false)
      ∧ ∃ t, step { State.reset with status := { err := true }, turns := [.reset] } = .next t
          ∧ t.status.err = false := ⟨⟨_, rfl, by decide⟩, _, rfl, by decide⟩

/-- Each code the statement names: ILLEGAL, TRUNCATED and INVALID_BCD. -/
theorem witness_FailureLeavesResults :
    (∃ t, engineTurn (flying 7 0 0 0) = .next t ∧ t.status.code = .illegal)
      ∧ (∃ t, engineTurn (flying 6 0 4 61) = .next t ∧ t.status.code = .truncated)
      ∧ ∃ t, engineTurn (issue (stage 57 badStamp) 5 57 0 0) = .next t ∧ t.status.code = .invalidBcd :=
  ⟨⟨_, rfl, by decide⟩, ⟨_, rfl, by decide⟩, _, rfl, by decide +kernel⟩

theorem witness_CrcCommandsFrame :
    (∃ t, exec .crc32Calc (flying 1 57 7 0) = .next t) ∧ (∃ t, exec .crc32Check (flying 2 57 3 0) = .next t)
      ∧ (∃ t, exec .crc16Calc (flying 3 57 7 0) = .next t) ∧ ∃ t, exec .crc16Check (flying 4 57 5 0) = .next t :=
  ⟨⟨_, rfl⟩, ⟨_, rfl⟩, ⟨_, rfl⟩, _, rfl⟩

/-- A destination byte and one beside it. -/
theorem witness_BcdAndPbFrame :
    (∃ t, exec .bcdDecode (flying 5 57 0 0) = .next t)
      ∧ (∃ t, exec .pbDecode (flying 6 57 7 0) = .next t) ∧ (flying 6 57 7 0).pending = some (shot 6 57 7 0)
      ∧ ¬ ((shot 6 57 7 0).dst.toNat ≤ 7 ∧ 7 < (shot 6 57 7 0).dst.toNat + (shot 6 57 7 0).len.toNat) :=
  ⟨⟨_, rfl⟩, ⟨_, rfl⟩, rfl, by decide⟩

/-- Also for Crc16DetectsSingleBitFlips: V11 flips bit 0 of byte 0 of V6. -/
theorem witness_Crc32DetectsSingleBitFlips :
    0 < digits.length ∧ digits[0] ^^^ (1#8 <<< 0) = 0x30#8
      ∧ (stage 0 [0x30#8]).byteAt (0 + 0) ≠ (stage 0 digits).byteAt (0 + 0) := by decide

/-- E15. -/
theorem witness_AcceptCommand :
    0x0C ≤ (0x0C#17 : WinAddr).toNat ∧ (0x0F#17 : WinAddr).toNat < 0x10 ∧ (0b0001#4 : Strobe) ≠ 0#4
      ∧ State.reset.status.busy = false
      ∧ ∀ k, k < 32 →
          (0x00000002#32).getLsbD k = ((0xABCDEF02#32).getLsbD k && (0b0001#4 : Strobe).getLsbD (k / 8)) := by
  decide

/-- Every clause at the ends of its range. -/
theorem witness_WritesWhileBusy :
    (flying 1 0 0 0).status.busy = true ∧ (1#4 : Strobe) ≠ 0#4
      ∧ (0x0C ≤ (0x0C#17).toNat ∧ (0x1B#17).toNat < 0x1C) ∧ 0x10000 ≤ (0x1FFFF#17).toNat
      ∧ (4 ≤ (4#17).toNat ∧ (7#17).toNat < 8) ∧ (8 ≤ (8#17).toNat ∧ (0x0B#17).toNat < 0x0C)
      ∧ (3#17).toNat < 4 ∧ (0x1C ≤ (0x1C#17).toNat ∧ (0xFFFF#17).toNat < 0x10000)
      ∧ (7#17).toNat < 8 ∧ 0x0C ≤ (0x0C#17).toNat := by decide

/-- E25 for ADDR, and the ends of each clause's range. -/
theorem witness_OperandWritesWhileIdle :
    State.reset.status.busy = false
      ∧ (∀ k, k < 32 → (0x1234AB78#32).getLsbD k =
          if (0b0010#4 : Strobe).getLsbD (k / 8) then (0x0000AB00#32).getLsbD k else (0x12345678#32).getLsbD k)
      ∧ (0x10 ≤ (0x10#17).toNat ∧ (0x13#17).toNat < 0x14) ∧ (0x14 ≤ (0x14#17).toNat ∧ (0x17#17).toNat < 0x18)
      ∧ (0x18 ≤ (0x18#17).toNat ∧ (0x1B#17).toNat < 0x1C) ∧ (4 ≤ (4#17).toNat ∧ (7#17).toNat < 8)
      ∧ (8 ≤ (8#17).toNat ∧ (0x0B#17).toNat < 0x0C) ∧ (3#17).toNat < 4
      ∧ (0x1C ≤ (0x1C#17).toNat ∧ (0xFFFF#17).toNat < 0x10000) := by decide

/-- The last word of the window, a word with present lanes, and both values of BUSY. Also for BufferWordReadsBack. -/
theorem witness_BufferWindowLanes :
    (0x1FFFF#17).toNat / 4 * 4 = 0x10000 + 0xFFFC ∧ (0x1003F#17).toNat / 4 * 4 = 0x10000 + 60
      ∧ 60 + 4 ≤ (stage 0 []).cfg.bufSize ∧ (stage 0 []).status.busy = false
      ∧ (flying 1 0 0 0).status.busy = true := by decide

/-- E24: both ranges at both ends. -/
theorem witness_ReservedSpaceReadsZero :
    (0x1C ≤ (0x1C#17).toNat ∧ (0x1F#17).toNat < 0x20) ∧ 0x40 ≤ (0x40#17).toNat ∧ (0xFFFF#17).toNat < 0x10000 := by
  decide

theorem witness_IdIsConstant : (3#17 : WinAddr).toNat < 4 := by decide

theorem witness_RepeatedWritesAreIdempotent :
    bufferOk (flying 1 0 0 0) = true ∧ (0x0B#17).toNat < 0x0C ∧ 0x10 ≤ (0x10#17).toNat := by decide

/-- Every clause: STATUS is 0 after reset, so a poll for BUSY = 0 matches and one for DONE = 1 does not. -/
theorem witness_HostTurnMakesOneAccess :
    (driven [.rd 0x08, .rd 0]).program = .rd 0x08 :: [.rd 0]
      ∧ (driven [.wr 0x0C 1 0xF]).program = .wr 0x0C 1 0xF :: []
      ∧ (driven [.poll 0x08 1 0]).hostRead 0x08 &&& 1#32 = 0#32
      ∧ (driven [.poll 0x08 2 2]).hostRead 0x08 &&& 2#32 ≠ 2#32
      ∧ (driven [.irqWait]).irq = false
      ∧ ({ driven [.irqWait] with ie := true, status := { done := true } }).irq = true
      ∧ (driven []).program = [] := by decide

/-- The acceptance clause and the acknowledge clause (E30). The completion clause has `witness_CompletionEffects`. -/
theorem witness_InterruptFollowsCompletion :
    0x0C ≤ (0x0C#17).toNat ∧ (0x0F#17).toNat < 0x10 ∧ (1#4 : Strobe) ≠ 0#4 ∧ State.reset.status.busy = false
      ∧ 8 ≤ (8#17).toNat ∧ (0x0B#17).toNat < 0x0C ∧ (1#4 : Strobe).getLsbD 0 = true ∧ (2#32).getLsbD 1 = true := by
  decide

/-- A reset abandons a command in flight (R254). -/
theorem witness_ResetEventValues :
    let s := { flying 1 0 0 0 with turns := [.reset, .host] }
    s.cfg.wf = true ∧ s.turns = .reset :: [.host] ∧ s.pending = some (shot 1 0 0 0) := ⟨by decide, rfl, rfl⟩

/-- Steps that change BUSY and DONE by an acceptance and by a completion, and DONE by an acknowledge. -/
theorem witness_FlagsHaveOnlyTheirWriters :
    (∃ t, step (driven [.wr 0x0C 1 0xF]) = .next t ∧ t.status.busy = true)
      ∧ (∃ t, step (flying 1 0 65 0) = .next t ∧ t.status.done = true ∧ t.status.err = true
          ∧ t.status.code = .truncated)
      ∧ (∃ t, step { driven [.wr 0x08 2 0xF] with status := { done := true } } = .next t ∧ t.status.done = false)
      ∧ (∃ t, step { flying 1 0 0 0 with program := [.wr 0x10 5 0xF], turns := [.host] } = .next t
          ∧ t.status.overrun = true)
      ∧ (flying 1 0 65 0).nextAgent ≠ some .reset :=
  ⟨⟨_, rfl, by decide⟩, ⟨_, rfl, by decide⟩, ⟨_, rfl, by decide⟩, ⟨_, rfl, by decide⟩, by decide⟩

/-- Steps that change CRC32_RESULT, TS_*, ADDR and CTRL.IE. -/
theorem witness_RegistersHaveOnlyTheirWriters :
    (∃ t, step (flying 1 57 1 0) = .next t ∧ t.crc32Result ≠ (flying 1 57 1 0).crc32Result)
      ∧ (∃ t, step (flying 5 57 0 0) = .next t ∧ t.ts ≠ (flying 5 57 0 0).ts)
      ∧ (∃ t, step (driven [.wr 0x10 5 0xF]) = .next t ∧ t.addr ≠ State.reset.addr)
      ∧ ∃ t, step (driven [.wr 0x04 1 0xF]) = .next t ∧ t.ie ≠ State.reset.ie :=
  ⟨⟨_, rfl, by decide +kernel⟩, ⟨_, rfl, by decide +kernel⟩, ⟨_, rfl, by decide⟩, _, rfl, by decide⟩

/-- Both writers: a strobed lane of a host write, and a parity strip of the last byte in place. -/
theorem witness_BufferBytesHaveOnlyTheirWriters :
    (∃ t, step { stage 63 [0xC1#8] with program := [.wr 0x1003C 0 0x8] } = .next t ∧ t.byteAt 63 = 0#8)
      ∧ (∃ t, step (issue (stage 63 [0xC1#8]) 6 63 1 63) = .next t ∧ t.byteAt 63 = 0x41#8)
      ∧ (stage 63 [0xC1#8]).byteAt 63 = 0xC1#8 :=
  ⟨⟨_, rfl, by decide +kernel⟩, ⟨_, rfl, by decide +kernel⟩, by decide⟩

/-- Also for BusyHostTurnsLeaveCommandAndResults. -/
theorem witness_ResultIndependentOfSchedule :
    let s := { flying 5 57 0 0 with program := [.wr 0x10 5 0xF, .rd 0x08] }
    s.cfg.wf = true ∧ s.status.busy = true ∧ s.pending = some (shot 5 57 0 0)
      ∧ ∃ t, engineTurn s = .next t ∧ t.ts.year = 0x07E7#16 := ⟨by decide, rfl, rfl, _, rfl, by decide +kernel⟩

/-- Two different states that agree on all that the engine step reads. -/
theorem witness_EngineStepIsDeterministic :
    let s := flying 5 57 0 0
    let s' := { flying 5 57 0 0 with ie := true, program := [.rd 0] }
    s ≠ s' ∧ s.cfg = s'.cfg ∧ s.pending = some (shot 5 57 0 0) ∧ s'.pending = some (shot 5 57 0 0)
      ∧ (∀ x, x < s.cfg.bufSize → s.byteAt x = s'.byteAt x)
      ∧ { resultsOf s with buf := [], draws := 0 } = { resultsOf s' with buf := [], draws := 0 }
      ∧ (∃ t, engineTurn s = .next t) ∧ ∃ t, engineTurn s' = .next t :=
  ⟨by decide, rfl, rfl, rfl, fun _ _ => rfl, rfl, ⟨_, rfl⟩, _, rfl⟩

/-- A schedule without a reset. -/
theorem witness_PendingEmptiesWithinSchedule :
    let s := { flying 1 0 0 0 with turns := [.host, .host] }
    s.cfg.wf = true ∧ s.pending.isSome = true ∧ Agent.reset ∉ s.turns := by decide

/-- P3's hang, and the end of a run (R123). -/
theorem witness_HangsAndEndedRunsStay :
    let s := driven [.poll 0x08 2 2]
    s.cfg.wf = true ∧ s.turns = [] ∧ s.pending = none ∧ s.program = .poll 0x08 2 2 :: []
      ∧ s.hostRead 0x08 &&& 2#32 ≠ 2#32 ∧ State.reset.turns = [] ∧ runEnded State.reset = true := by decide

/-- A write that ends at the buffer's end and starts inside a word. -/
theorem witness_WrbufWritesItsBytes :
    let s := { stage 0 [] with program := opWrbuf 57 stamp ++ [HostOp.rd 0] }
    s.cfg.wf = true ∧ s.status.busy = false ∧ 57 + stamp.length ≤ s.cfg.bufSize
      ∧ s.program = opWrbuf 57 stamp ++ [HostOp.rd 0] := ⟨by decide, rfl, by decide, rfl⟩

end Sys2Proof.Tests
end

/-! Parameters outside R7's legal ranges: what every command and every step answer (U6). -/

namespace Sys2Proof

/-- R7's legal ranges, read as what lies outside them. -/
theorem Config.wf_eq_false_iff (cfg : Config) :
    cfg.wf = false ↔
      cfg.bufSize % 4 ≠ 0 ∨ cfg.bufSize < 64 ∨ 65536 < cfg.bufSize ∨ 65436 < cfg.yearBase := by
  simp only [Config.wf, Bool.and_eq_false_iff, beq_eq_false_iff_ne, decide_eq_false_iff_not, not_le, or_assoc]

end Sys2Proof

namespace Sys2Proof.Machine

/-- With illegal parameters the common part of a command refuses before it looks at PENDING (U6). -/
theorem runCommand_illegalParameters {i : Instr} {s : State} {body : Pending → State} (hwf : s.cfg.wf = false) :
    runCommand i s body = .refused .illegalParameters := by
  simp [runCommand, hwf]

/-- Every command is an instance of `runCommand`, so each inherits its refusal (U6). -/
theorem exec_illegalParameters (i : Instr) {s : State} (hwf : s.cfg.wf = false) :
    exec i s = .refused .illegalParameters := by
  cases i <;> exact runCommand_illegalParameters hwf

/-- With illegal parameters a step refuses whoever's turn it is (U6). -/
theorem step_illegalParameters {s : State} (hwf : s.cfg.wf = false) : step s = .refused .illegalParameters := by
  simp [step, runTurn, hwf]

/-- Settles O7: the four ways out of R7's ranges are the ways `Config.wf` fails, which `step` and `runCommand` check
first. -/
theorem illegalParametersAreRefused : Obligations.IllegalParametersAreRefused := by
  intro s hout
  have hwf : s.cfg.wf = false := s.cfg.wf_eq_false_iff.mpr hout
  exact ⟨step_illegalParameters hwf, fun i => exec_illegalParameters i hwf⟩

end Sys2Proof.Machine

/-! A register read as a number: the word's fields in their printed bits (R20 to R36). -/

namespace Sys2Proof.Machine

/-- A read in a register's word returns that register (R61). -/
theorem State.hostRead_of_target_reg (s : State) {a : WinAddr} {r : Reg} (h : target a = .reg r) :
    s.hostRead a = s.readReg r := by
  simp [State.hostRead, h]

/-- A read at a register's printed offset returns that register (R20). -/
theorem State.hostRead_place (s : State) (r : Reg) : s.hostRead r.place = s.readReg r :=
  s.hostRead_of_target_reg (by cases r <;> rfl)

/-- The number read at a register's printed offset is the register's (R20). -/
theorem State.hostRead_place_toNat (s : State) (r : Reg) {n : Nat} (h : (s.readReg r).toNat = n) :
    (s.hostRead r.place).toNat = n := by
  rw [hostRead_place, h]

/-- A field appended above another counts in units of the lower field's width. -/
theorem toNat_append_eq_add {m n : Nat} (x : BitVec m) (y : BitVec n) :
    (x ++ y).toNat = 2 ^ n * x.toNat + y.toNat := by
  rw [BitVec.toNat_append, Nat.shiftLeft_eq, Nat.mul_comm, Nat.two_pow_add_eq_or_of_lt y.isLt]

/-- STATUS as a number (R23). -/
theorem Status.word_toNat (st : Status) :
    st.word.toNat =
      st.busy.toNat + 2 * st.done.toNat + 4 * st.err.toNat + 8 * st.overrun.toNat + 16 * st.code.bits.toNat
        + 2 ^ 8 * st.crc32Ok.toNat + 2 ^ 9 * st.crc16Ok.toNat + 2 ^ 10 * st.bcdOk.toNat
        + 2 ^ 11 * st.bcdBadDigit.toNat + 2 ^ 12 * st.bcdBadDoy.toNat + 2 ^ 13 * st.bcdBadTime.toNat := by
  simp only [Status.word, toNat_append_eq_add, BitVec.toNat_ofBool, BitVec.toNat_ofNat]
  omega

/-- Settles O40: the sum of `Status.word`'s fields, each at the weight of its place, and CODE by its cases (R210). -/
theorem statusReadback : Obligations.StatusReadback := by
  intro s
  have h : s.hostRead 0x0008#17 = s.status.word := s.hostRead_place .status
  rw [h, Status.word_toNat]
  cases s.status.code <;> rfl

/-- CTRL as a number: IE in bit 0 (R22). -/
theorem ctrlWord_toNat (ie : Bool) : (ctrlWord ie).toNat = ie.toNat := by
  cases ie <;> rfl

/-- TS_YEAR as a number (R33). -/
theorem State.readReg_tsYear_toNat (s : State) :
    (s.readReg .tsYear).toNat = s.ts.year.toNat + 2 ^ 16 * s.ts.yy.toNat + 2 ^ 24 * s.ts.leap.toNat := by
  simp only [State.readReg, toNat_append_eq_add, BitVec.toNat_ofBool, BitVec.toNat_ofNat]
  omega

/-- TS_DATE as a number (R34). -/
theorem State.readReg_tsDate_toNat (s : State) :
    (s.readReg .tsDate).toNat = s.ts.doy.toNat + 2 ^ 16 * s.ts.month.toNat + 2 ^ 24 * s.ts.day.toNat := by
  simp only [State.readReg, toNat_append_eq_add]
  omega

/-- TS_HMS as a number (R35). -/
theorem State.readReg_tsHms_toNat (s : State) :
    (s.readReg .tsHms).toNat = s.ts.hour.toNat + 2 ^ 8 * s.ts.minute.toNat + 2 ^ 16 * s.ts.second.toNat := by
  simp only [State.readReg, toNat_append_eq_add, BitVec.toNat_ofNat]
  omega

/-- Settles O39: each read reaches its register, and each word is the sum of its fields. -/
theorem registerReadback : Obligations.RegisterReadback := by
  intro s
  exact ⟨s.hostRead_place_toNat .ctrl (ctrlWord_toNat s.ie), s.hostRead_place .cmd, s.hostRead_place .addr,
    s.hostRead_place .len, s.hostRead_place .dst, s.hostRead_place .crc32Result, s.hostRead_place .crc32Stored,
    s.hostRead_place_toNat .crc16Result (BitVec.toNat_setWidth_of_le (by decide)),
    s.hostRead_place_toNat .crc16Stored (BitVec.toNat_setWidth_of_le (by decide)),
    s.hostRead_place_toNat .tsYear s.readReg_tsYear_toNat,
    s.hostRead_place_toNat .tsDate s.readReg_tsDate_toNat,
    s.hostRead_place_toNat .tsHms s.readReg_tsHms_toNat,
    s.hostRead_place_toNat .tsMs (BitVec.toNat_setWidth_of_le (by decide))⟩

/-- Settles O37: `target_reserved` decodes both ranges, and reserved space is not held while BUSY. -/
theorem reservedSpaceReadsZero : Obligations.ReservedSpaceReadsZero := by
  intro s a ha
  have ht : target a = .reserved := target_reserved ha
  exact ⟨by simp [State.hostRead, ht], fun d strb => by simp [State.hostWrite, ht, Target.heldWhileBusy]⟩

/-- Settles O38: the address decodes to ID, which `writeReg` leaves alone and which is not held while BUSY. -/
theorem idIsConstant : Obligations.IdIsConstant := by
  intro s a ha
  have ht : target a = .reg .id := target_reg .id (Nat.zero_le _) ha
  exact ⟨s.hostRead_of_target_reg ht,
    fun d strb => by simp [State.hostWrite, ht, Target.heldWhileBusy, State.writeReg]⟩

/-- The interrupt level as a conjunction (R39). -/
theorem State.irq_iff (s : State) : s.irq = true ↔ s.ie = true ∧ s.status.done = true := by
  simp [State.irq]

/-- Settles O43: reset clears IE, so irq is 0 after it. -/
theorem interruptLevel : Obligations.InterruptLevel :=
  ⟨State.irq_iff, rfl, fun _ => rfl⟩

end Sys2Proof.Machine

/-! What the commands leave unchanged, and which command writes which result (R41, R112, R118). -/

namespace Sys2Proof.Machine

/-- Settles O22: a CRC command answers its own part or TRUNCATED, and both are record updates of the fields named. -/
theorem crcCommandsFrame : Obligations.CrcCommandsFrame := by
  intro s t
  refine ⟨?_, ?_, ?_, ?_⟩
  all_goals
    intro h
    obtain ⟨_, p, _, ⟨_, rfl⟩ | ⟨_, rfl⟩⟩ := runCommand_next h <;> exact ⟨rfl, rfl, fun _ => rfl⟩

/-- The frame of BCD_DECODE: TS_*, the BCD flags and the completion's fields are all it writes (R178). -/
theorem execBcdDecode_frame {s t : State} (h : exec .bcdDecode s = .next t) :
    { t with ts := s.ts, status := s.status, pending := s.pending } = s
      ∧ { t.status with
          bcdOk := s.status.bcdOk, bcdBadDigit := s.status.bcdBadDigit, bcdBadDoy := s.status.bcdBadDoy
          bcdBadTime := s.status.bcdBadTime
          code := s.status.code, err := s.status.err, done := s.status.done, busy := s.status.busy } = s.status
      ∧ ∀ x, t.byteAt x = s.byteAt x := by
  obtain ⟨_, p, _, ⟨_, rfl⟩ | ⟨_, _, f, bd, bdoy, bt, _, _, _, _, _, rfl⟩⟩ := execBcdDecode_next h
  · exact ⟨rfl, rfl, fun _ => rfl⟩
  · obtain ⟨_, h⟩ | ⟨_, h⟩ := s.finishBcd_cases f bd bdoy bt <;> rw [h] <;> exact ⟨rfl, rfl, fun _ => rfl⟩

/-- The frame of PB_DECODE: the destination range and the completion's fields are all it writes (R201). -/
theorem execPbDecode_frame {s t : State} (h : exec .pbDecode s = .next t) :
    { t with buf := s.buf, status := s.status, pending := s.pending } = s
      ∧ { t.status with
          code := s.status.code, err := s.status.err, done := s.status.done, busy := s.status.busy } = s.status
      ∧ ∀ p, s.pending = some p →
          ∀ x, ¬ (p.dst.toNat ≤ x ∧ x < p.dst.toNat + p.len.toNat) → t.byteAt x = s.byteAt x := by
  obtain ⟨_, p, hp, ⟨_, rfl⟩ | ⟨_, rfl⟩⟩ := runCommand_next h
  · refine ⟨rfl, rfl, fun p' hp' x hx => ?_⟩
    obtain rfl : p = p' := Option.some.inj (hp.symm.trans hp')
    rw [State.byteAt_complete, State.byteAt_writeBytes, dif_neg (by simpa using hx)]
  · exact ⟨rfl, rfl, fun _ _ _ _ => rfl⟩

/-- Settles O23. -/
theorem bcdAndPbFrame : Obligations.BcdAndPbFrame :=
  fun _ _ => ⟨execBcdDecode_frame, execPbDecode_frame⟩

/-- No command writes the parameters. -/
theorem exec_cfg {i : Instr} {s t : State} (h : exec i s = .next t) : t.cfg = s.cfg := (exec_frame h).1

/-- Whatever command runs and however it ends, it completes (R113). -/
theorem exec_completion {i : Instr} {s t : State} (h : exec i s = .next t) :
    t.pending = none ∧ t.status.busy = false ∧ t.status.done = true ∧ t.status.overrun = s.status.overrun
      ∧ t.status.err = (s.status.err || t.status.code != .ok) := by
  obtain ⟨_, _, _, _, _, _, _, _, _, _, hcompletion⟩ := exec_frame h
  exact hcompletion

/-- Only the command a result register belongs to writes it, and only with CODE 0 (R29 to R36, R118). -/
theorem exec_register_writers {i : Instr} {s t : State} (h : exec i s = .next t) :
    (t.crc32Result ≠ s.crc32Result → (i = .crc32Calc ∨ i = .crc32Check) ∧ t.status.code = .ok)
      ∧ (t.crc32Stored ≠ s.crc32Stored → i = .crc32Check ∧ t.status.code = .ok)
      ∧ (t.crc16Result ≠ s.crc16Result → (i = .crc16Calc ∨ i = .crc16Check) ∧ t.status.code = .ok)
      ∧ (t.crc16Stored ≠ s.crc16Stored → i = .crc16Check ∧ t.status.code = .ok)
      ∧ (t.ts ≠ s.ts → i = .bcdDecode ∧ t.status.code = .ok) := by
  cases i
  case bcdDecode =>
    obtain ⟨_, p, _, ⟨_, rfl⟩ | ⟨_, _, f, bd, bdoy, bt, _, _, _, _, _, rfl⟩⟩ := execBcdDecode_next h
    · simp
    · obtain ⟨_, h⟩ | ⟨_, h⟩ := s.finishBcd_cases f bd bdoy bt <;> simp [h]
  all_goals
    obtain ⟨_, p, _, ⟨_, rfl⟩ | ⟨_, rfl⟩⟩ := runCommand_next h <;> simp

/-- Only the command a validity flag belongs to writes it: the CRC flags with CODE 0, the BCD flags with CODE 0 or 3
(R23, R41, R118). -/
theorem exec_flag_writers {i : Instr} {s t : State} (h : exec i s = .next t) :
    (t.status.crc32Ok ≠ s.status.crc32Ok → i = .crc32Check ∧ t.status.code = .ok)
      ∧ (t.status.crc16Ok ≠ s.status.crc16Ok → i = .crc16Check ∧ t.status.code = .ok)
      ∧ ((t.status.bcdOk ≠ s.status.bcdOk ∨ t.status.bcdBadDigit ≠ s.status.bcdBadDigit
            ∨ t.status.bcdBadDoy ≠ s.status.bcdBadDoy ∨ t.status.bcdBadTime ≠ s.status.bcdBadTime) →
          i = .bcdDecode ∧ (t.status.code = .ok ∨ t.status.code = .invalidBcd)) := by
  cases i
  case bcdDecode =>
    obtain ⟨_, p, _, ⟨_, rfl⟩ | ⟨_, _, f, bd, bdoy, bt, _, _, _, _, _, rfl⟩⟩ := execBcdDecode_next h
    · simp
    · obtain ⟨_, h⟩ | ⟨_, h⟩ := s.finishBcd_cases f bd bdoy bt <;> simp [h]
  all_goals
    obtain ⟨_, p, _, ⟨_, rfl⟩ | ⟨_, rfl⟩⟩ := runCommand_next h <;> simp

/-- Only PB_DECODE in range writes the buffer, and it writes the destination range (R201). -/
theorem exec_buf {i : Instr} {s t : State} (h : exec i s = .next t) :
    t.buf = s.buf
      ∨ ∃ p, i = .pbDecode ∧ s.pending = some p ∧ p.dst.toNat + p.len.toNat ≤ s.cfg.bufSize
          ∧ t.buf = Memory.writeAll s.buf p.dst.toNat ((s.bytes p.addr.toNat p.len.toNat).map stripParity) := by
  cases i
  case bcdDecode =>
    have hbuf := congrArg State.buf (execBcdDecode_frame h).1
    exact .inl hbuf
  case pbDecode =>
    obtain ⟨_, p, hp, ⟨hr, rfl⟩ | ⟨_, rfl⟩⟩ := runCommand_next h
    · simp only [inRange, Bool.and_eq_true, decide_eq_true_eq] at hr
      exact .inr ⟨p, rfl, hp, hr.2, rfl⟩
    · exact .inl rfl
  all_goals
    obtain ⟨_, p, _, ⟨_, rfl⟩ | ⟨_, rfl⟩⟩ := runCommand_next h <;> exact .inl rfl

end Sys2Proof.Machine

/-! Everything one host write and one step can do to the state, one case an event of R41. -/

namespace Sys2Proof.Machine

open Sys2Proof.Safety

/-- What a host write of `d` under `strb` at address `a` can leave of `s`, by the register or window the address lies
in (R20, R61, R66, R110, R116). -/
inductive HostWriteEffect (s : State) (a : WinAddr) (d : Word) (strb : Strobe) : State → Prop
  /-- No strobe, reserved space, or a read-only register. -/
  | ignored : HostWriteEffect s a d strb s
  /-- CMD, ADDR, LEN, DST or the window, with a command in flight. -/
  | dropped (hstrb : strb ≠ 0#4) (hbusy : s.status.busy = true)
      (ha : 0x0C ≤ a.toNat ∧ a.toNat < 0x1C ∨ 0x10000 ≤ a.toNat) :
      HostWriteEffect s a d strb { s with status := s.status.drop }
  /-- CTRL. -/
  | ctrl (hstrb : strb ≠ 0#4) (hlo : 0x04 ≤ a.toNat) (hhi : a.toNat < 0x08) :
      HostWriteEffect s a d strb { s with ie := if strb.getLsbD 0 then d.getLsbD 0 else s.ie }
  /-- STATUS. -/
  | acknowledged (hstrb : strb ≠ 0#4) (hlo : 0x08 ≤ a.toNat) (hhi : a.toNat < 0x0C) :
      HostWriteEffect s a d strb { s with status := s.status.clear (d &&& laneMask strb) }
  /-- CMD while idle. -/
  | accepted (hstrb : strb ≠ 0#4) (hidle : s.status.busy = false) (hlo : 0x0C ≤ a.toNat) (hhi : a.toNat < 0x10) :
      HostWriteEffect s a d strb (s.accept (d &&& laneMask strb))
  /-- ADDR while idle. -/
  | addr (hstrb : strb ≠ 0#4) (hidle : s.status.busy = false) (hlo : 0x10 ≤ a.toNat) (hhi : a.toNat < 0x14) :
      HostWriteEffect s a d strb { s with addr := mergeLanes s.addr d (laneMask strb) 0xFFFFFFFF#32 }
  /-- LEN while idle. -/
  | len (hstrb : strb ≠ 0#4) (hidle : s.status.busy = false) (hlo : 0x14 ≤ a.toNat) (hhi : a.toNat < 0x18) :
      HostWriteEffect s a d strb { s with len := mergeLanes s.len d (laneMask strb) 0xFFFFFFFF#32 }
  /-- DST while idle. -/
  | dst (hstrb : strb ≠ 0#4) (hidle : s.status.busy = false) (hlo : 0x18 ≤ a.toNat) (hhi : a.toNat < 0x1C) :
      HostWriteEffect s a d strb { s with dst := mergeLanes s.dst d (laneMask strb) 0xFFFFFFFF#32 }
  /-- The window's word at buffer offset `b`, while idle. -/
  | window (b : Nat) (hstrb : strb ≠ 0#4) (hidle : s.status.busy = false) (ha : a.toNat / 4 * 4 = 0x10000 + b) :
      HostWriteEffect s a d strb { s with buf := writeWindow s.cfg.bufSize s.buf b d strb }

/-- The addresses whose writes are held while BUSY: CMD, ADDR, LEN, DST and the window (R116). -/
theorem range_of_heldWhileBusy {a : WinAddr} (h : (target a).heldWhileBusy = true) :
    0x0C ≤ a.toNat ∧ a.toNat < 0x1C ∨ 0x10000 ≤ a.toNat := by
  obtain ⟨r, hlo, hhi, ht⟩ | ⟨_, ht⟩ | ⟨b, hb, _⟩ := target_cases a
  · rw [ht] at h
    cases r <;> simp only [Target.heldWhileBusy, Bool.false_eq_true] at h <;> simp only [Reg.offset] at hlo hhi <;>
      omega
  · simp [ht, Target.heldWhileBusy] at h
  · omega

/-- A host write has one of these effects. -/
theorem State.hostWrite_effect (s : State) (a : WinAddr) (d : Word) (strb : Strobe) :
    HostWriteEffect s a d strb (s.hostWrite a d strb) := by
  obtain ⟨_, h⟩ | ⟨hs, hbusy, hheld, h⟩ | ⟨hs, hheld, ⟨r, ht, h⟩ | ⟨_, h⟩ | ⟨b, ht, h⟩⟩ := s.hostWrite_cases a d strb
  · rw [h]; exact .ignored
  · rw [h]; exact .dropped hs hbusy (range_of_heldWhileBusy hheld)
  · obtain ⟨hlo, hhi⟩ := target_eq_reg ht
    have hidle : (Target.reg r).heldWhileBusy = true → s.status.busy = false := fun hr => by
      rw [ht, hr] at hheld
      simpa using hheld
    rw [h]
    cases r
    case ctrl =>
      have := HostWriteEffect.ctrl (s := s) (d := d) hs hlo hhi
      rwa [← writeCtrl_bit] at this
    case status => exact .acknowledged hs hlo hhi
    case cmd => exact .accepted hs (hidle rfl) hlo hhi
    case addr => exact .addr hs (hidle rfl) hlo hhi
    case len => exact .len hs (hidle rfl) hlo hhi
    case dst => exact .dst hs (hidle rfl) hlo hhi
    all_goals exact .ignored
  · rw [h]; exact .ignored
  · have hidle : s.status.busy = false := by simpa [ht, Target.heldWhileBusy] using hheld
    have hb : a.toNat / 4 * 4 = 0x10000 + b := by
      obtain ⟨_, _, _, ht'⟩ | ⟨_, ht'⟩ | ⟨b', hb, ht'⟩ := target_cases a <;> rw [ht] at ht' <;> cases ht'
      exact hb
    rw [h]; exact .window b hs hidle hb

/-- What one step can leave of `s`, by the event it is (R74, R111): the events of R41 that write DCSV's state, and those
that move only the host's side. -/
inductive StepEffect (s : State) : State → Prop
  /-- Nobody's turn, a turn with nothing to do, or a host operation that only reads. -/
  | quiet (program : List HostOp) (turns : List Agent) (reads : List ReadBack) :
      StepEffect s { s with program := program, turns := turns, reads := reads }
  /-- The host's next access is a write. -/
  | hostWrite {off : WinAddr} {d : Word} {strb : Strobe} {u : State} (program : List HostOp)
      (hnext : hostNext s = some (.wr off d strb)) (hu : HostWriteEffect s.dropTurn off d strb u) :
      StepEffect s { u with program := program }
  /-- The engine completes an illegal word. -/
  | illegal (hc : completes s) : StepEffect s (s.dropTurn.complete .illegal)
  /-- The engine runs a legal command. -/
  | command {t : State} (i : Instr) (hr : runs i s) (ht : exec i s.dropTurn = .next t) : StepEffect s t
  /-- A reset event. -/
  | reset (ha : s.nextAgent = some .reset) : StepEffect s s.dropTurn.resetEvent

/-- Every step has one of these effects. -/
theorem step_effect {s t : State} (h : step s = .next t) : StepEffect s t := by
  obtain ⟨_, ⟨ha, rfl⟩ | ⟨ha, he⟩ | ⟨ha, rfl⟩ | ⟨_, rfl⟩⟩ := step_next h
  · obtain h | ⟨off, d, strb, rest, hp, h⟩ | ⟨_, rest, reads, _, h⟩ := hostTurn_cases s.dropTurn
    · rw [h]; exact .quiet s.program s.turns.tail s.reads
    · rw [h]
      have hp' : s.program = .wr off d strb :: rest := hp
      exact .hostWrite rest (by simp [hostNext, ha, hp']) (s.dropTurn.hostWrite_effect off d strb)
    · rw [h]; exact .quiet rest s.turns.tail reads
  · obtain ⟨_, rfl⟩ | ⟨p, _, hp, _, rfl⟩ | ⟨p, i, hp, hi, he⟩ := engineTurn_next he
    · exact .quiet s.program s.turns.tail s.reads
    · have hp' : s.pending = some p := hp
      exact .illegal ⟨ha, by simp [hp']⟩
    · have hp' : s.pending = some p := hp
      exact .command i ⟨ha, by simp [inFlight, hp', hi]⟩ he
  · exact .reset ha
  · exact .quiet _ _ _

/-- Running a legal command completes it (R112, R113). -/
theorem completes_of_runs {i : Instr} {s : State} (h : runs i s) : completes s := by
  obtain ⟨ha, hi⟩ := h
  refine ⟨ha, ?_⟩
  cases hp : s.pending with
  | none => simp [inFlight, hp] at hi
  | some p => rfl

end Sys2Proof.Machine

/-! What every step keeps: the parameters and the invariants of the handshake and the buffer. -/

namespace Sys2Proof.Machine

open Sys2Proof.Safety

/-- Settles O8: no event of `StepEffect` writes the parameters. -/
theorem parametersNeverChange : Obligations.ParametersNeverChange := by
  intro s t h
  cases step_effect h with
  | quiet => rfl
  | hostWrite _ _ hu => cases hu <;> rfl
  | illegal => rfl
  | command _ _ he => exact (exec_cfg he).trans s.dropTurn_cfg
  | reset => rfl

/-- The handshake is one of two phases: idle with PENDING empty, or in flight with PENDING the snapshot (R38, R78,
R110). -/
theorem handshakeOk_iff (s : State) :
    handshakeOk s = true ↔
      (s.status.busy = false ∧ s.pending = none)
      ∨ (s.status.busy = true ∧ s.status.done = false
          ∧ s.pending = some ⟨s.lastCmd, s.addr, s.len, s.dst⟩) := by
  unfold handshakeOk
  cases s.status.busy <;> cases s.pending <;> simp

/-- A host write keeps the handshake: while BUSY the snapshot's registers are held, and while idle only CMD starts a
flight (R78, R110, R116). -/
theorem HostWriteEffect.keeps_handshake {s t : State} {a : WinAddr} {d : Word} {strb : Strobe}
    (hw : HostWriteEffect s a d strb t) (h : handshakeOk s = true) : handshakeOk t = true := by
  rw [handshakeOk_iff] at h ⊢
  cases hw with
  | ignored | dropped | ctrl => exact h
  | acknowledged =>
    obtain hidle | ⟨hbusy, hdone, hp⟩ := h
    · exact .inl hidle
    · exact .inr ⟨hbusy, by simp [hdone], hp⟩
  | accepted => exact .inr ⟨rfl, rfl, rfl⟩
  | addr _ hidle | len _ hidle | dst _ hidle | window _ _ hidle =>
    exact .inl ⟨hidle, by simpa [hidle] using h⟩

/-- Settles O48: a host write keeps the handshake, a completion and a reset end it in the idle phase. -/
theorem handshakeInvariantKept : Obligations.HandshakeInvariantKept := by
  intro s t h hstep
  cases step_effect hstep with
  | quiet => exact h
  | hostWrite _ _ hu => exact hu.keeps_handshake h
  | illegal | reset => rfl
  | command _ _ he =>
    obtain ⟨hp, hbusy, _⟩ := exec_completion he
    exact (handshakeOk_iff t).mpr (.inl ⟨hbusy, hp⟩)

/-- A command keeps the buffer's canonical form: PB_DECODE's destination was checked against BUF_SIZE (R114). -/
theorem exec_keeps_bufferOk {i : Instr} {s t : State} (h : exec i s = .next t) (hs : bufferOk s = true) :
    bufferOk t = true := by
  unfold bufferOk at hs ⊢
  obtain hb | ⟨p, _, _, hr, hb⟩ := exec_buf h <;> rw [exec_cfg h, hb]
  · exact hs
  · exact Memory.wf_writeAll hs (by simpa using hr)

/-- Settles O49: the writers of the buffer are the window, PB_DECODE and reset. -/
theorem bufferInvariantKept : Obligations.BufferInvariantKept := by
  intro s t h hstep
  cases step_effect hstep with
  | quiet | illegal => exact h
  | reset => rfl
  | hostWrite _ _ hu =>
    cases hu with
    | window => exact wf_writeWindow h
    | _ => exact h
  | command _ _ he => exact exec_keeps_bufferOk he h

end Sys2Proof.Machine

/-! Which event wrote which flag and register (R41). -/

namespace Sys2Proof.Machine

open Sys2Proof.Safety

/-- Bits 0 to 7 of a word are its low lane's, so a STATUS bit is cleared exactly by a 1 in its strobed data (R66). -/
theorem acknowledges_of_write {k : Nat} (hk : k < 8) {s : State} {off : WinAddr} {d : Word} {strb : Strobe}
    (hnext : hostNext s = some (.wr off d strb)) (hstrb : strb ≠ 0#4) (hlo : 0x08 ≤ off.toNat)
    (hhi : off.toNat < 0x0C) (hbit : (d &&& laneMask strb).getLsbD k = true) : acknowledges k s := by
  rw [BitVec.getLsbD_and, getLsbD_laneMask _ (by omega), Nat.div_eq_of_lt hk, Bool.and_eq_true] at hbit
  exact ⟨d, strb, ⟨off, hnext, hstrb, hlo, hhi⟩, hbit.2, hbit.1⟩

/-- A write dropped for BUSY is the event `drops` names (R116). -/
theorem drops_of_write {s : State} {off : WinAddr} {d : Word} {strb : Strobe}
    (hnext : hostNext s = some (.wr off d strb)) (hstrb : strb ≠ 0#4) (hbusy : s.status.busy = true)
    (hoff : 0x0C ≤ off.toNat ∧ off.toNat < 0x1C ∨ 0x10000 ≤ off.toNat) : drops s := by
  refine ⟨?_, hbusy⟩
  obtain ⟨hlo, hhi⟩ | hlo := hoff
  · exact .inl ⟨d, strb, off, hnext, hstrb, hlo, hhi⟩
  · exact .inr ⟨d, strb, off, hnext, hstrb, hlo, off.isLt⟩

/-- A flag that a mask bit may clear changes only where the bit is 1, and then to 0. -/
theorem cleared_of_ne {b m : Bool} (h : (b && !m) ≠ b) : m = true ∧ (b && !m) = false := by
  revert b m; decide

/-- Settles O52, one case an event of `StepEffect`; the goals that remain in a case are the flags its event writes. -/
theorem flagsHaveOnlyTheirWriters : Obligations.FlagsHaveOnlyTheirWriters := by
  intro s t h hreset
  cases step_effect h with
  | quiet => simp
  | @hostWrite off d strb u _ hnext hu =>
    cases hu with
    | ignored | ctrl | addr | len | dst | window => simp
    | dropped hstrb hbusy hoff =>
      have hdrop : drops s := drops_of_write hnext hstrb hbusy hoff
      simp [hdrop]
    | acknowledged hstrb hlo hhi =>
      have hack : ∀ k < 8, (d &&& laneMask strb).getLsbD k = true → acknowledges k s := fun k hk =>
        acknowledges_of_write hk hnext hstrb hlo hhi
      refine ⟨by simp, fun hne => ?_, fun hne => ?_, fun hne => ?_, by simp, by simp, by simp, by simp⟩
      · obtain ⟨hbit, hclear⟩ := cleared_of_ne hne
        exact .inl ⟨.inr (hack 1 (by omega) hbit), hclear⟩
      · obtain ⟨hbit, hclear⟩ := cleared_of_ne hne
        exact .inl ⟨hack 2 (by omega) hbit, hclear⟩
      · obtain ⟨hbit, hclear⟩ := cleared_of_ne hne
        exact .inl ⟨hack 3 (by omega) hbit, hclear⟩
    | accepted hstrb hidle hlo hhi =>
      have hacc : accepts s := ⟨⟨d, strb, off, hnext, hstrb, hlo, hhi⟩, hidle⟩
      simp [hacc]
  | illegal hc => simp [hc]
  | command i hr he =>
    have hc : completes s := completes_of_runs hr
    obtain ⟨_, hbusy, hdone, hoverrun, herr⟩ := exec_completion he
    obtain ⟨hcrc32, hcrc16, hbcd⟩ := exec_flag_writers he
    refine ⟨fun _ => .inr ⟨hc, hbusy⟩, fun _ => .inr ⟨hc, hdone⟩, fun hne => ?_, fun hne => absurd hoverrun hne,
      fun _ => hc, fun hne => ?_, fun hne => ?_, fun hne => ?_⟩
    · have hcode : t.status.code ≠ .ok := fun hok => hne (by simpa [hok] using herr)
      exact .inr ⟨hc, hcode, by simp [herr, hcode]⟩
    · obtain ⟨rfl, hok⟩ := hcrc32 hne
      exact ⟨hr, hok⟩
    · obtain ⟨rfl, hok⟩ := hcrc16 hne
      exact ⟨hr, hok⟩
    · obtain ⟨rfl, hcode⟩ := hbcd hne
      exact ⟨hr, hcode⟩
  | reset ha => exact absurd ha hreset

/-- Settles O53, one case an event of `StepEffect`. -/
theorem registersHaveOnlyTheirWriters : Obligations.RegistersHaveOnlyTheirWriters := by
  intro s t h hreset
  cases step_effect h with
  | quiet => simp
  | @hostWrite off d strb u _ hnext hu =>
    cases hu with
    | ignored | dropped | acknowledged | window => simp
    | ctrl hstrb hlo hhi =>
      have hw : ∃ d strb, writesAt 0x04 0x08 d strb s := ⟨d, strb, off, hnext, hstrb, hlo, hhi⟩
      simp [hw]
    | accepted hstrb hidle hlo hhi =>
      have hacc : accepts s := ⟨⟨d, strb, off, hnext, hstrb, hlo, hhi⟩, hidle⟩
      simp [hacc]
    | addr hstrb hidle hlo hhi =>
      have hw : s.status.busy = false ∧ ∃ d strb, writesAt 0x10 0x14 d strb s :=
        ⟨hidle, d, strb, off, hnext, hstrb, hlo, hhi⟩
      simp [hw]
    | len hstrb hidle hlo hhi =>
      have hw : s.status.busy = false ∧ ∃ d strb, writesAt 0x14 0x18 d strb s :=
        ⟨hidle, d, strb, off, hnext, hstrb, hlo, hhi⟩
      simp [hw]
    | dst hstrb hidle hlo hhi =>
      have hw : s.status.busy = false ∧ ∃ d strb, writesAt 0x18 0x1C d strb s :=
        ⟨hidle, d, strb, off, hnext, hstrb, hlo, hhi⟩
      simp [hw]
  | illegal => simp
  | command i hr he =>
    obtain ⟨_, hie, hlast, haddr, hlen, hdst, _⟩ := exec_frame he
    obtain ⟨hcrc32, hstored32, hcrc16, hstored16, hts⟩ := exec_register_writers he
    refine ⟨fun hne => ?_, fun hne => ?_, fun hne => ?_, fun hne => ?_, fun hne => ?_, fun hne => absurd hlast hne,
      fun hne => absurd haddr hne, fun hne => absurd hlen hne, fun hne => absurd hdst hne,
      fun hne => absurd hie hne⟩
    · obtain ⟨rfl | rfl, hok⟩ := hcrc32 hne
      · exact ⟨.inl hr, hok⟩
      · exact ⟨.inr hr, hok⟩
    · obtain ⟨rfl, hok⟩ := hstored32 hne
      exact ⟨hr, hok⟩
    · obtain ⟨rfl | rfl, hok⟩ := hcrc16 hne
      · exact ⟨.inl hr, hok⟩
      · exact ⟨.inr hr, hok⟩
    · obtain ⟨rfl, hok⟩ := hstored16 hne
      exact ⟨hr, hok⟩
    · obtain ⟨rfl, hok⟩ := hts hne
      exact ⟨hr, hok⟩
  | reset ha => exact absurd ha hreset

end Sys2Proof.Machine

/-! A timestamp that BCD_DECODE stores is a real calendar day and time (R174 to R178). -/

namespace Sys2Proof.Machine

open Sys2Proof.Safety

/-- Without a bad digit every nibble is a decimal digit (R173). -/
theorem nibble_le_nine {ns : List Nat} (h : badDigit ns = false) (k : Nat) : nibble ns k ≤ 9 := by
  simp only [badDigit, List.any_eq_false, decide_eq_true_eq, not_lt] at h
  rw [nibble, List.getD_eq_getElem?_getD]
  cases hk : ns[k]? with
  | none => simp
  | some n => exact h n (List.mem_of_getElem? hk)

/-- Without a bad digit the fields have the numbers of digits the layout gives them (R171, R172). -/
theorem digitsFit_bcdFields {ns : List Nat} (h : badDigit ns = false) :
    digitsFit (bcdFields ns).yy (bcdFields ns).doy (bcdFields ns).hour (bcdFields ns).minute (bcdFields ns).second
      (bcdFields ns).ms := by
  have hn := nibble_le_nine h
  have := hn 0; have := hn 1; have := hn 2; have := hn 3; have := hn 4; have := hn 5; have := hn 6
  have := hn 7; have := hn 8; have := hn 9; have := hn 10; have := hn 11; have := hn 12; have := hn 13
  simp only [digitsFit, bcdFields]
  omega

/-- `C` of R176 is the running sum of the month lengths. -/
theorem monthTable_getD (leap : Bool) {m : Nat} (hm : m ≤ 12) :
    (monthTable leap).getD m 0 = daysBefore leap (m + 1) := by
  have : ∀ leap, ∀ m : Fin 13, (monthTable leap).getD m 0 = daysBefore leap (m + 1) := by decide
  exact this leap ⟨m, by omega⟩

/-- In a rising list the elements below `d` come first: position `k` holds one exactly when they are more than `k`. -/
theorem lt_length_filter_iff {l : List Nat} (hl : l.Pairwise (· < ·)) (d : Nat) {k : Nat} (hk : k < l.length) :
    k < (l.filter fun c => decide (c < d)).length ↔ l[k] < d := by
  induction l generalizing k with
  | nil => simp at hk
  | cons x xs ih =>
    obtain ⟨hx, hxs⟩ := List.pairwise_cons.mp hl
    by_cases hxd : x < d
    · cases k with
      | zero => simp [hxd]
      | succ k =>
        simp only [List.length_cons, Nat.add_lt_add_iff_right] at hk
        simpa [hxd] using ih hxs hk
    · have hle : ∀ c ∈ x :: xs, ¬ c < d := fun c hc => by
        obtain rfl | hc := List.mem_cons.mp hc
        · exact hxd
        · have := hx c hc
          omega
      have hnil : (x :: xs).filter (fun c => decide (c < d)) = [] :=
        List.filter_eq_nil_iff.mpr (by simpa using hle)
      simpa [hnil] using hle _ (List.getElem_mem hk)

/-- MONTH counts the entries of `C[0..11]` below DOY (R176). -/
theorem lt_monthOf_iff (leap : Bool) (doy : Nat) {k : Nat} (hk : k < 12) :
    k < monthOf leap doy ↔ (monthTable leap).getD k 0 < doy := by
  have hlen : ((monthTable leap).take 12).length = 12 := by cases leap <;> rfl
  have hrise : ((monthTable leap).take 12).Pairwise (· < ·) := by cases leap <;> decide
  have hget : ((monthTable leap).take 12)[k] = (monthTable leap).getD k 0 := by
    rw [List.getElem_take, List.getD_eq_getElem]
  rw [← hget]
  exact lt_length_filter_iff hrise doy _

/-- MONTH is at most 12: `C[0..11]` has twelve entries (R176). -/
theorem monthOf_le_twelve (leap : Bool) (doy : Nat) : monthOf leap doy ≤ 12 :=
  (List.length_filter_le _ _).trans (List.length_take_le 12 _)

/-- For a valid DOY, MONTH and DAY are a day of the calendar, the DOY-th of the year (R176). -/
theorem calendar_of_doy (leap : Bool) {doy : Nat} (h1 : 1 ≤ doy) (h2 : doy ≤ if leap then 366 else 365) :
    1 ≤ monthOf leap doy ∧ monthOf leap doy ≤ 12
      ∧ 1 ≤ dayOf leap doy ∧ dayOf leap doy ≤ monthLength leap (monthOf leap doy)
      ∧ daysBefore leap (monthOf leap doy) + dayOf leap doy = doy := by
  have hle := monthOf_le_twelve leap doy
  have hpos : 0 < monthOf leap doy := (lt_monthOf_iff leap doy (by omega)).mpr (by cases leap <;> exact h1)
  obtain ⟨m, hm⟩ : ∃ m, monthOf leap doy = m + 1 := ⟨monthOf leap doy - 1, by omega⟩
  have hlow : daysBefore leap (m + 1) < doy := by
    rw [← monthTable_getD leap (by omega)]
    exact (lt_monthOf_iff leap doy (by omega)).mp (by omega)
  have hhigh : doy ≤ daysBefore leap (m + 1) + monthLength leap (m + 1) := by
    change doy ≤ daysBefore leap (m + 1 + 1)
    rw [← monthTable_getD leap (by omega)]
    by_cases hlast : m + 1 < 12
    · exact not_lt.mp fun hlt => by have := (lt_monthOf_iff leap doy hlast).mpr hlt; omega
    · obtain rfl : m = 11 := by omega
      cases leap <;> exact h2
  have hday : dayOf leap doy = doy - daysBefore leap (m + 1) := by
    rw [dayOf, hm, Nat.add_sub_cancel, monthTable_getD leap (by omega)]
  rw [hday, hm]
  omega

/-- The year a legal YEAR_BASE and two digits give fits in 16 bits (R7, R174). -/
theorem fullYear_lt {cfg : Config} (hwf : cfg.wf = true) {yy : Nat} (hyy : yy ≤ 99) : fullYear cfg yy < 65536 := by
  simp only [Config.wf, Bool.and_eq_true, decide_eq_true_eq] at hwf
  obtain ⟨_, hbase⟩ := hwf
  simp only [fullYear]
  omega

/-- A small number in a register reads back as itself. -/
theorem toNat_ofNat_of_lt {w n : Nat} (h : n < 2 ^ w) : (BitVec.ofNat w n).toNat = n := by
  rw [BitVec.toNat_ofNat, Nat.mod_eq_of_lt h]

/-- No month is longer than 31 days. -/
theorem monthLength_le (leap : Bool) (m : Nat) : monthLength leap m ≤ 31 := by
  unfold monthLength
  split_ifs <;> omega

/-- A real timestamp, field by field over naturals (R33 to R36). -/
theorem timestampOk_iff (cfg : Config) (ts : Timestamp) :
    timestampOk cfg ts = true ↔
      ts.yy.toNat ≤ 99 ∧ ts.year.toNat = cfg.yearBase + ts.yy.toNat
        ∧ (ts.leap = true ↔ gregorianLeap ts.year.toNat)
        ∧ 1 ≤ ts.month.toNat ∧ ts.month.toNat ≤ 12
        ∧ 1 ≤ ts.day.toNat ∧ ts.day.toNat ≤ monthLength ts.leap ts.month.toNat
        ∧ ts.doy.toNat = daysBefore ts.leap ts.month.toNat + ts.day.toNat
        ∧ ts.hour.toNat ≤ 99 ∧ ts.minute.toNat ≤ 99 ∧ ts.second.toNat ≤ 99
        ∧ (cfg.timeRangeCheck = true → ts.hour.toNat ≤ 23 ∧ ts.minute.toNat ≤ 59 ∧ ts.second.toNat ≤ 59)
        ∧ ts.ms.toNat ≤ 999 := by
  have hleap : (ts.leap == decide (gregorianLeap ts.year.toNat)) = true
      ↔ (ts.leap = true ↔ gregorianLeap ts.year.toNat) := by
    rw [beq_iff_eq, Bool.eq_iff_iff, decide_eq_true_iff]
  have hclock (p : Prop) : (cfg.timeRangeCheck = false ∨ p) ↔ (cfg.timeRangeCheck = true → p) := by
    cases cfg.timeRangeCheck <;> simp
  simp only [timestampOk, Bool.and_eq_true, Bool.or_eq_true, Bool.not_eq_true', hleap, decide_eq_true_eq,
    beq_iff_eq, and_assoc, hclock]

/-- The timestamp of fields that pass the three checks is a real day and time (R174 to R178). -/
theorem timestampOf_ok {cfg : Config} {f : BcdFields} (hwf : cfg.wf = true)
    (hfit : digitsFit f.yy f.doy f.hour f.minute f.second f.ms) (hdoy : badDoy cfg f = false)
    (htime : badTime cfg f = false) : timestampOk cfg (timestampOf cfg f) = true := by
  obtain ⟨hyy, hd, hh, hm, hs, hms⟩ := hfit
  have hrange := mt (badDoy_iff cfg f).mpr (by simp [hdoy])
  have hclock := mt (badTime_iff cfg f).mpr (by simp [htime])
  push Not at hrange hclock
  have hyear := fullYear_lt hwf hyy
  have hleap := leapYear_iff (fullYear cfg f.yy)
  rw [timestampOk_iff]
  simp only [timestampOf]
  generalize leapYear (fullYear cfg f.yy) = leap at *
  obtain ⟨hmonth1, hmonth12, hday1, hday, hsum⟩ := calendar_of_doy leap hrange.1 hrange.2
  have hday31 := hday.trans (monthLength_le leap _)
  rw [toNat_ofNat_of_lt (n := f.yy) (by omega), toNat_ofNat_of_lt (n := fullYear cfg f.yy) hyear,
    toNat_ofNat_of_lt (n := f.doy) (by omega), toNat_ofNat_of_lt (n := monthOf leap f.doy) (by omega),
    toNat_ofNat_of_lt (n := dayOf leap f.doy) (by omega), toNat_ofNat_of_lt (n := f.hour) (by omega),
    toNat_ofNat_of_lt (n := f.minute) (by omega), toNat_ofNat_of_lt (n := f.second) (by omega),
    toNat_ofNat_of_lt (n := f.ms) (by omega)]
  exact ⟨hyy, rfl, hleap, hmonth1, hmonth12, hday1, hday, hsum.symm, hh, hm, hs, hclock, hms⟩

/-- BCD_DECODE keeps TS_* or stores the timestamp of a decode without a bad flag (R178). -/
theorem execBcdDecode_ts {s t : State} (h : exec .bcdDecode s = .next t) :
    t.ts = s.ts ∨ timestampOk s.cfg t.ts = true := by
  obtain ⟨hwf, p, _, ⟨_, rfl⟩ | ⟨_, ns, f, bd, bdoy, bt, _, rfl, rfl, hdoy, htime, rfl⟩⟩ := execBcdDecode_next h
  · exact .inl rfl
  · obtain ⟨_, h⟩ | ⟨hgood, h⟩ := s.finishBcd_cases (bcdFields ns) (badDigit ns) bdoy bt <;> rw [h]
    · exact .inl rfl
    · simp only [Bool.or_eq_false_iff] at hgood
      obtain ⟨⟨hdigit, rfl⟩, rfl⟩ := hgood
      simp only [hdigit, Bool.not_false, Bool.true_and] at hdoy htime
      exact .inr (timestampOf_ok hwf (digitsFit_bcdFields hdigit) hdoy.symm htime.symm)

/-- A command keeps TS_* at the reset value or a real timestamp: only BCD_DECODE writes it (R33 to R36). -/
theorem exec_keeps_tsOk {i : Instr} {s t : State} (he : exec i s = .next t) (h : tsOk s = true) : tsOk t = true := by
  obtain ⟨_, _, _, _, hwriter⟩ := exec_register_writers he
  simp only [tsOk, exec_cfg he, Bool.or_eq_true] at h ⊢
  by_cases hts : t.ts = s.ts
  · rwa [hts]
  · obtain ⟨rfl, _⟩ := hwriter hts
    exact .inr ((execBcdDecode_ts he).resolve_left hts)

/-- Settles O50: BCD_DECODE and reset are the writers of TS_*. -/
theorem timestampInvariantKept : Obligations.TimestampInvariantKept := by
  intro s t h hstep
  cases step_effect hstep with
  | quiet | illegal => exact h
  | hostWrite _ _ hu => cases hu <;> exact h
  | command _ _ he => exact exec_keeps_tsOk he h
  | reset => rfl

end Sys2Proof.Machine

/-! The window's place in the system's address space (R72). -/

namespace Sys2Proof

/-- The system address of a window address is that many bytes past the base (R72). -/
theorem Config.windowAddr_eq_some_iff (cfg : Config) (x : Nat) (a : WinAddr) :
    cfg.windowAddr x = some a ↔ cfg.dcsvBase ≤ x ∧ x < cfg.dcsvBase + 0x20000 ∧ a.toNat = x - cfg.dcsvBase := by
  unfold Config.windowAddr
  split
  · next h =>
    have hfit : (BitVec.ofNat 17 (x - cfg.dcsvBase)).toNat = x - cfg.dcsvBase := by
      rw [BitVec.toNat_ofNat, Nat.mod_eq_of_lt (by omega)]
    rw [Option.some.injEq, ← BitVec.toNat_inj, hfit]
    omega
  · simp only [reduceCtorEq, false_iff]
    omega

end Sys2Proof

/-! Host accesses at one address: writes that are performed, the low address bits, repeated writes (R65, R66, R71). -/

namespace Sys2Proof.Machine

/-- Settles O45. -/
theorem systemAddressMap : Obligations.SystemAddressMap := Config.windowAddr_eq_some_iff

/-- Window decode does not see the two low address bits (R61, R65). -/
theorem target_clearLowBits (a : WinAddr) : target (a &&& 0x1FFFC#17) = target a := by
  have hw : wordOffset (a &&& 0x1FFFC#17) = wordOffset a := by
    rw [wordOffset, wordOffset, BitVec.and_assoc, BitVec.and_self]
  rw [target, target, hw]

/-- Settles O36: an access depends on its address only through window decode. -/
theorem addressLowBitsIgnored : Obligations.AddressLowBitsIgnored := by
  intro s a d strb
  exact ⟨by rw [State.hostRead, State.hostRead, target_clearLowBits],
    by rw [State.hostWrite, State.hostWrite, target_clearLowBits]⟩

/-- Settles O42: the branches of `hostTurn`, one operation each. -/
theorem hostTurnMakesOneAccess : Obligations.HostTurnMakesOneAccess := by
  intro s rest
  exact ⟨fun off hp => by simp [hostTurn, hp], fun off d strb hp => by simp [hostTurn, hp],
    fun off mask val hp => ⟨fun hmatch => by simp [hostTurn, hp, hmatch], fun hmatch => by simp [hostTurn, hp, hmatch]⟩,
    fun hp => ⟨fun hirq => by simp [hostTurn, hp, hirq], fun hirq => by simp [hostTurn, hp, hirq]⟩,
    fun hp => by simp [hostTurn, hp]⟩

/-- With no lane strobed a read-write register keeps its value (R66). -/
@[simp] theorem mergeLanes_noStrobe (old d w : Word) : mergeLanes old d (laneMask 0#4) w = old := by
  have hm : laneMask 0#4 = 0#32 := by decide
  have hkeep : ~~~0#32 = BitVec.allOnes 32 := by decide
  simp only [mergeLanes, hm, hkeep, BitVec.and_allOnes, BitVec.and_zero, BitVec.zero_and, BitVec.or_zero]

/-- With no lane strobed a register write changes nothing, but for CMD's (R60, R66). -/
theorem State.writeReg_noStrobe (s : State) {r : Reg} (hr : r ≠ .cmd) (d : Word) :
    s.writeReg r d (laneMask 0#4) = s := by
  cases r
  case cmd => contradiction
  case ctrl => rw [State.writeReg, writeCtrl_bit]; rfl
  all_goals simp [State.writeReg, Status.clear_strobed]

/-- A write to a register other than CMD, strobed or not, is performed unless its target is held while BUSY (R66,
R116). -/
theorem State.hostWrite_reg (s : State) {a : WinAddr} {r : Reg} (ht : target a = .reg r) (hr : r ≠ .cmd)
    (hheld : s.status.busy = true → (target a).heldWhileBusy = false) (d : Word) (strb : Strobe) :
    s.hostWrite a d strb = s.writeReg r d (laneMask strb) := by
  obtain ⟨rfl, h⟩ | ⟨_, hbusy, hh, _⟩ | ⟨_, _, ⟨r', ht', h⟩ | ⟨ht', _⟩ | ⟨_, ht', _⟩⟩ := s.hostWrite_cases a d strb
  · rw [h, s.writeReg_noStrobe hr]
  · rw [hheld hbusy] at hh
    cases hh
  · rw [ht] at ht'
    cases ht'
    exact h
  · simp [ht] at ht'
  · simp [ht] at ht'

/-- While idle, a write to the window writes its strobed lanes (R62). -/
theorem State.hostWrite_window (s : State) {a : WinAddr} {b : Nat} (ht : target a = .window b)
    (hidle : s.status.busy = false) (d : Word) (strb : Strobe) :
    s.hostWrite a d strb = { s with buf := writeWindow s.cfg.bufSize s.buf b d strb } := by
  by_cases hs : strb = 0#4
  · subst hs
    simp [State.hostWrite, writeWindow, writeLane]
  · simp [State.hostWrite, hs, hidle, ht]

/-- The value of a strobed word write, from its bits (R66). -/
theorem mergeLanes_eq_of_bits {old d v : Word} {strb : Strobe}
    (h : ∀ k, k < 32 → v.getLsbD k = if strb.getLsbD (k / 8) then d.getLsbD k else old.getLsbD k) :
    mergeLanes old d (laneMask strb) 0xFFFFFFFF#32 = v :=
  BitVec.eq_of_getLsbD_eq fun k hk => by rw [getLsbD_mergeLanes _ _ _ hk, h k hk]

/-- A write to a read-only register or reserved space has no effect (R20, R40). -/
theorem HostWriteEffect.eq_self {s t : State} {a : WinAddr} {d : Word} {strb : Strobe}
    (hw : HostWriteEffect s a d strb t) (ha : a.toNat < 4 ∨ 0x1C ≤ a.toNat ∧ a.toNat < 0x10000) : t = s := by
  cases hw with
  | ignored => rfl
  | _ => omega

/-- Settles O33: while idle nothing is held, so each write is its register's `writeReg`. -/
theorem operandWritesWhileIdle : Obligations.OperandWritesWhileIdle := by
  intro s a d v strb hidle
  have hheld : s.status.busy = true → (target a).heldWhileBusy = false := by simp [hidle]
  refine ⟨fun ⟨hlo, hhi⟩ hv => ?_, fun ⟨hlo, hhi⟩ hv => ?_, fun ⟨hlo, hhi⟩ hv => ?_, fun ⟨hlo, hhi⟩ => ?_,
    fun ⟨hlo, hhi⟩ => ?_, (s.hostWrite_effect a d strb).eq_self, fun hs => ?_⟩
  · rw [s.hostWrite_reg (target_reg .addr hlo hhi) (by decide) hheld, State.writeReg, mergeLanes_eq_of_bits hv]
  · rw [s.hostWrite_reg (target_reg .len hlo hhi) (by decide) hheld, State.writeReg, mergeLanes_eq_of_bits hv]
  · rw [s.hostWrite_reg (target_reg .dst hlo hhi) (by decide) hheld, State.writeReg, mergeLanes_eq_of_bits hv]
  · rw [s.hostWrite_reg (target_reg .ctrl hlo hhi) (by decide) hheld, State.writeReg, writeCtrl_bit]
  · rw [s.hostWrite_reg (target_reg .status hlo hhi) (by decide) hheld, State.writeReg, Status.clear_strobed]
  · simp [State.hostWrite, hs]

/-- A strobed write of the same data twice leaves what it leaves once (R66, R71). -/
@[simp] theorem mergeLanes_mergeLanes (old d m w : Word) :
    mergeLanes (mergeLanes old d m w) d m w = mergeLanes old d m w := by
  refine BitVec.eq_of_getLsbD_eq fun k hk => ?_
  simp only [mergeLanes, BitVec.getLsbD_or, BitVec.getLsbD_and, BitVec.getLsbD_not]
  cases m.getLsbD k <;> simp

/-- Clearing the same flags twice is clearing them once (R66, R71). -/
@[simp] theorem Status.clear_clear (st : Status) (m : Word) : (st.clear m).clear m = st.clear m := by
  simp [Status.clear]

/-- A register write leaves BUSY, but for CMD's (R23, R110). -/
theorem State.writeReg_busy (s : State) {r : Reg} (hr : r ≠ .cmd) (d m : Word) :
    (s.writeReg r d m).status.busy = s.status.busy := by
  cases r
  case cmd => contradiction
  all_goals rfl

/-- The same register write twice is one, but for CMD's (R71). -/
theorem State.writeReg_writeReg (s : State) {r : Reg} (hr : r ≠ .cmd) (d : Word) (strb : Strobe) :
    (s.writeReg r d (laneMask strb)).writeReg r d (laneMask strb) = s.writeReg r d (laneMask strb) := by
  cases r
  case cmd => contradiction
  case ctrl =>
    simp only [State.writeReg, writeCtrl_bit]
    split <;> rfl
  all_goals simp [State.writeReg]

/-- The same window write twice is one, in canonical form (R71; log 4). -/
theorem writeWindow_writeWindow {size : Nat} {m : List Host.Cell} (h : Memory.wf size m = true) (b : Nat) (d : Word)
    (strb : Strobe) :
    writeWindow size (writeWindow size m b d strb) b d strb = writeWindow size m b d strb := by
  refine Memory.eq_of_written (wf_writeWindow (wf_writeWindow h)) (wf_writeWindow h) fun x => ?_
  simp only [written_writeWindow]
  split <;> rfl

/-- Settles O41: the second write takes the first one's branch, for the first leaves BUSY alone, and each branch is
idempotent. -/
theorem repeatedWritesAreIdempotent : Obligations.RepeatedWritesAreIdempotent := by
  intro s a d strb hbuf ha
  obtain ⟨_, h⟩ | ⟨hs, hbusy, hheld, h⟩ | ⟨_, hheld, ⟨r, ht, h⟩ | ⟨_, h⟩ | ⟨b, ht, h⟩⟩ := s.hostWrite_cases a d strb
  · rw [h, h]
  · rw [h]
    simp [State.hostWrite, hs, hbusy, hheld, Status.drop]
  · have hr : r ≠ .cmd := by
      rintro rfl
      have hcmd := target_eq_reg ht
      simp only [Reg.offset] at hcmd
      omega
    rw [h, State.hostWrite_reg _ ht hr (by rwa [s.writeReg_busy hr]), s.writeReg_writeReg hr]
  · rw [h, h]
  · have hidle : s.status.busy = false := by simpa [ht, Target.heldWhileBusy] using hheld
    simp [h, State.hostWrite_window _ ht, hidle, writeWindow_writeWindow hbuf]

end Sys2Proof.Machine

/-! The buffer as the host sees it through the window and as a command reads it (R62, R67, R68). -/

namespace Sys2Proof.Machine

open Sys2Proof.Safety

/-- Settles O30, by induction on the width: the lowest byte, and 256 times the value above it. -/
theorem storedValuesAreLittleEndian : Obligations.StoredValuesAreLittleEndian := by
  intro s a n
  induction n generalizing a with
  | zero => rfl
  | succ n ih =>
    have hshift : ∀ k, (s.byteAt (a + (k + 1))).toNat * 256 ^ (k + 1)
        = 256 * ((s.byteAt (a + 1 + k)).toNat * 256 ^ k) := fun k => by
      rw [show a + (k + 1) = a + 1 + k by omega, pow_succ]
      ring
    calc (s.memRead a (n + 1)).toNat
        = 256 * (s.memRead (a + 1) n).toNat + (s.byteAt a).toNat := toNat_append_eq_add _ _
      _ = ((List.range (n + 1)).map fun k => (s.byteAt (a + k)).toNat * 256 ^ k).sum := by
        rw [ih, ← List.sum_map_mul_left, List.range_succ_eq_map]
        simp [Function.comp_def, hshift, Nat.add_comm]

/-- A lane of a window read is the byte there if it is present (R62). -/
theorem State.lane_hostRead_window (s : State) {a : WinAddr} {b : Nat} (ht : target a = .window b) {k : Nat}
    (hk : k < 4) : lane (s.hostRead a) k = s.readLane (b + k) := by
  rw [State.hostRead, ht]
  refine (lane_fourBytes _ _ _ _ hk).trans ?_
  interval_cases k <;> rfl

/-- A byte after a window write: the data's where its lane is strobed and present, as before elsewhere (R62). -/
theorem State.byteAt_writeWindow (s : State) (b : Nat) (d : Word) (strb : Strobe) (x : Nat) :
    ({ s with buf := writeWindow s.cfg.bufSize s.buf b d strb } : State).byteAt x
      = if b ≤ x ∧ x < b + 4 ∧ strb.getLsbD (x - b) = true ∧ x < s.cfg.bufSize then lane d (x - b)
        else s.byteAt x := by
  simp only [State.byteAt, written_writeWindow]
  split <;> rfl

/-- While BUSY a host write leaves the command in flight, its operands and every result (R78, R116, R124). -/
theorem HostWriteEffect.keeps_flight {s t : State} {a : WinAddr} {d : Word} {strb : Strobe}
    (hw : HostWriteEffect s a d strb t) (hbusy : s.status.busy = true) :
    t.pending = s.pending ∧ t.lastCmd = s.lastCmd ∧ t.addr = s.addr ∧ t.len = s.len ∧ t.dst = s.dst
      ∧ resultsOf t = resultsOf s ∧ t.status.busy = true := by
  cases hw with
  | ignored | dropped | ctrl | acknowledged => exact ⟨rfl, rfl, rfl, rfl, rfl, rfl, hbusy⟩
  | accepted _ hidle | addr _ hidle | len _ hidle | dst _ hidle | window _ _ hidle => simp [hbusy] at hidle

/-- Equal results are equal bytes. -/
theorem State.byteAt_of_resultsOf {s t : State} (h : resultsOf t = resultsOf s) (x : Nat) :
    t.byteAt x = s.byteAt x := by
  have hbuf : t.buf = s.buf := congrArg Results.buf h
  have hdraws : t.draws = s.draws := congrArg Results.draws h
  rw [State.byteAt, State.byteAt, hbuf, hdraws]

/-- Settles O34. -/
theorem bufferWindowLanes : Obligations.BufferWindowLanes := by
  intro s a b hb
  have ht : target a = .window b := target_window hb
  refine ⟨fun k hk => s.lane_hostRead_window ht hk, fun d strb hidle => ?_, fun d strb hbusy x => ?_⟩
  · rw [s.hostWrite_window ht hidle]
    refine ⟨rfl, fun k hk => ?_, fun x hx => ?_⟩
    · rw [State.byteAt_writeWindow, Nat.add_sub_cancel_left]
      simp [hk, and_comm]
    · rw [State.byteAt_writeWindow, if_neg (by omega)]
  · obtain ⟨_, _, _, _, _, hresults, _⟩ := (s.hostWrite_effect a d strb).keeps_flight hbusy
    exact State.byteAt_of_resultsOf hresults x

/-- A word whose lanes are the four bytes of the buffer is the value a command reads there (R67, R68). -/
theorem State.memRead_four_of_lanes {s : State} {b : Nat} {d : Word} (h : ∀ k < 4, s.byteAt (b + k) = lane d k) :
    s.memRead b 4 = d := by
  have hlow : s.byteAt b = lane d 0 := h 0 (by omega)
  rw [State.memRead_four, h 3 (by omega), h 2 (by omega), h 1 (by omega), hlow]
  exact fourBytes_lanes d

/-- A window read of a word inside the buffer is the value a command reads there (R67, R68). -/
theorem State.memRead_eq_hostRead_window (s : State) {a : WinAddr} {b : Nat} (ht : target a = .window b)
    (hb : b + 4 ≤ s.cfg.bufSize) : s.memRead b 4 = s.hostRead a :=
  State.memRead_four_of_lanes fun k hk => by
    rw [s.lane_hostRead_window ht hk, State.readLane, if_pos (by omega)]

/-- Settles O35: every lane is strobed and present, so the bytes are the data's lanes. -/
theorem bufferWordReadsBack : Obligations.BufferWordReadsBack := by
  intro s a b d hidle hb hsize
  obtain ⟨_, hwrite, _⟩ := bufferWindowLanes s a b hb
  obtain ⟨_, hbyte, _⟩ := hwrite d 0xF#4 hidle
  have hd : (s.hostWrite a d 0xF#4).memRead b 4 = d := State.memRead_four_of_lanes fun k hk => by
    have hstrobe : (0xF#4).getLsbD k = true := by interval_cases k <;> rfl
    rw [hbyte k hk, if_pos ⟨by omega, hstrobe⟩]
  have hread := (s.hostWrite a d 0xF#4).memRead_eq_hostRead_window (target_window hb) (by simpa using hsize)
  exact ⟨hread.symm.trans hd, hd⟩

end Sys2Proof.Machine

/-! A command in flight: what the host's turns leave of it, and that it ends (R75, R78, R111, R257). -/

namespace Sys2Proof.Machine

/-- Settles O55: a host turn is one write, or moves only the host's side. -/
theorem busyHostTurnsLeaveCommandAndResults : Obligations.BusyHostTurnsLeaveCommandAndResults := by
  intro s hbusy
  obtain h | ⟨off, d, strb, rest, _, h⟩ | ⟨_, _, _, _, h⟩ := hostTurn_cases s
  · rw [h]; exact ⟨rfl, rfl, rfl, rfl, rfl, rfl, hbusy⟩
  · rw [h]; exact (s.hostWrite_effect off d strb).keeps_flight hbusy
  · rw [h]; exact ⟨rfl, rfl, rfl, rfl, rfl, rfl, hbusy⟩

/-- No host write empties PENDING (R38, R41). -/
theorem HostWriteEffect.keeps_pending {s t : State} {a : WinAddr} {d : Word} {strb : Strobe}
    (hw : HostWriteEffect s a d strb t) (hp : s.pending.isSome = true) : t.pending.isSome = true := by
  cases hw with
  | accepted => rfl
  | _ => exact hp

/-- A host turn takes no turn off the schedule, writes no parameter and does not empty PENDING. -/
theorem hostTurn_keeps_pending (s : State) :
    (hostTurn s).cfg = s.cfg ∧ (hostTurn s).turns = s.turns
      ∧ (s.pending.isSome = true → (hostTurn s).pending.isSome = true) := by
  obtain h | ⟨off, d, strb, rest, _, h⟩ | ⟨_, _, _, _, h⟩ := hostTurn_cases s
  · rw [h]; exact ⟨rfl, rfl, id⟩
  · rw [h]
    exact ⟨s.hostWrite_cfg off d strb, s.hostWrite_turns off d strb, (s.hostWrite_effect off d strb).keeps_pending⟩
  · rw [h]; exact ⟨rfl, rfl, id⟩

/-- With a command in flight the engine's step ends it with DONE (R112, R113). -/
theorem step_engine_completes {s : State} (hwf : s.cfg.wf = true) (hp : s.pending.isSome = true)
    (ha : s.nextAgent = some .engine) : ∃ t, step s = .next t ∧ t.pending = none ∧ t.status.done = true := by
  obtain ⟨p, hp⟩ := Option.isSome_iff_exists.mp hp
  obtain ⟨t, ht⟩ := engineTurn_answers (s := s.dropTurn) hwf
  obtain ⟨hpending, _, hdone, _⟩ := engineTurn_frame (s := s.dropTurn) hp ht
  exact ⟨t, by simp [step, runTurn, hwf, ha, ht], hpending, hdone⟩

/-- A run of one more step begins with that step. -/
theorem run_succ_of_step {M : Host.Core} {s t : M.State} (h : M.step s = .next t) (k : Nat) :
    M.run (k + 1) s = M.run k t := by
  rw [Host.Core.run, h]

/-- Settles O58, by induction on the schedule: an engine or reset turn, or its end, empties PENDING, and a host turn
shortens it with the command still in flight. -/
theorem pendingEmptiesWithinSchedule : Obligations.PendingEmptiesWithinSchedule := by
  intro s hwf hp
  induction hturns : s.turns generalizing s with
  | nil =>
    obtain ⟨p, hp'⟩ := Option.isSome_iff_exists.mp hp
    obtain ⟨t, hstep, hpending, hdone⟩ :=
      step_engine_completes hwf hp (by simp [State.nextAgent, hturns, hp'])
    exact ⟨1, t, by simp, run_succ_of_step (M := core) hstep 0, hpending, fun _ => hdone⟩
  | cons agent rest ih =>
    have ha : s.nextAgent = some agent := by simp [State.nextAgent, hturns]
    cases agent with
    | host =>
      obtain ⟨hcfg, hrest, hflight⟩ := hostTurn_keeps_pending s.dropTurn
      obtain ⟨k, t, hk, hrun, hpending, hdone⟩ :=
        ih (hostTurn s.dropTurn) (by rw [hcfg]; exact hwf) (hflight hp)
          (by rw [hrest, State.dropTurn, hturns, List.tail_cons])
      have hstep : step s = .next (hostTurn s.dropTurn) := by simp [step, runTurn, hwf, ha]
      exact ⟨k + 1, t, by simpa using hk, (run_succ_of_step (M := core) hstep k).trans hrun, hpending,
        fun hnot => hdone fun hmem => hnot (List.mem_cons_of_mem _ hmem)⟩
    | engine =>
      obtain ⟨t, hstep, hpending, hdone⟩ := step_engine_completes hwf hp ha
      exact ⟨1, t, by simp, run_succ_of_step (M := core) hstep 0, hpending, fun _ => hdone⟩
    | reset =>
      have hstep : step s = .next s.dropTurn.resetEvent := by simp [step, runTurn, hwf, ha]
      exact ⟨1, _, by simp, run_succ_of_step (M := core) hstep 0, rfl, fun hnot => absurd (List.mem_cons_self ..) hnot⟩

end Sys2Proof.Machine

/-! The opcode map: which command words decode, and what the engine makes of the others (R92 to R94, R115). -/

namespace Sys2Proof

open Sys2Proof.Safety

/-- A command word decodes to `i` exactly when RSVD is 0 and OPCODE is `i`'s (R92, R93). -/
theorem decode_eq_ok_iff (c : Word) (i : Instr) : decode c = .ok i ↔ rsvdOf c = 0#24 ∧ opcodeOf c = opcode i := by
  constructor
  · intro h
    unfold decode at h
    split_ifs at h with hrsvd hop
    all_goals
      cases h
      exact ⟨not_not.mp hrsvd, ‹_›⟩
  · rintro ⟨hrsvd, hop⟩
    cases i <;> simp [decode, hrsvd, hop, opcode]

/-- OPCODE of each command is its printed match word (R92). -/
theorem opcode_toNat (i : Instr) : (opcode i).toNat = matchWord i := by cases i <;> rfl

/-- The command word of each instruction is its printed match word (R92). -/
theorem encode_toNat (i : Instr) : (encode i).toNat = matchWord i := by cases i <;> rfl

/-- The match words are the numbers 1 to 6 (R92). -/
theorem exists_eq_matchWord_iff (n : Nat) : (∃ i, n = matchWord i) ↔ 1 ≤ n ∧ n ≤ 6 := by
  constructor
  · rintro ⟨i, rfl⟩
    cases i <;> simp [matchWord]
  · rintro ⟨hlo, hhi⟩
    interval_cases n
    exacts [⟨.crc32Calc, rfl⟩, ⟨.crc32Check, rfl⟩, ⟨.crc16Calc, rfl⟩, ⟨.crc16Check, rfl⟩, ⟨.bcdDecode, rfl⟩,
      ⟨.pbDecode, rfl⟩]

/-- A command word decodes to `i` exactly when it is `i`'s match word (R92, R93). -/
theorem decode_eq_ok_iff_toNat (c : Word) (i : Instr) : decode c = .ok i ↔ c.toNat = matchWord i := by
  have hbyte := (opcode i).isLt
  rw [decode_eq_ok_iff, ← BitVec.toNat_inj, ← BitVec.toNat_inj, rsvdOf_toNat, opcodeOf_toNat, ← opcode_toNat]
  simp only [BitVec.toNat_ofNat]
  omega

/-- A command word decodes exactly when RSVD is 0 and OPCODE is 1 to 6 (R92). -/
theorem exists_decode_eq_ok_iff (c : Word) :
    (∃ i, decode c = .ok i) ↔ c.toNat / 256 = 0 ∧ 1 ≤ c.toNat % 256 ∧ c.toNat % 256 ≤ 6 := by
  simp only [decode_eq_ok_iff_toNat, exists_eq_matchWord_iff]
  omega

/-- The legality check reads RSVD and OPCODE as numbers (R92). -/
theorem legalWord_iff (c : Word) :
    legalWord c = true ↔ c.toNat / 256 = 0 ∧ 1 ≤ c.toNat % 256 ∧ c.toNat % 256 ≤ 6 := by
  have hrsvd : rsvdOf c = 0#24 ↔ (rsvdOf c).toNat = 0 := BitVec.toNat_inj.symm
  rw [← rsvdOf_toNat, ← opcodeOf_toNat, ← hrsvd]
  simp [legalWord, rsvdOf, opcodeOf, and_assoc]

/-- Settles O3. -/
theorem legalWordsAreTheOpcodeMap : Obligations.LegalWordsAreTheOpcodeMap := fun c =>
  ⟨decode_eq_ok_iff_toNat c, exists_decode_eq_ok_iff c, (legalWord_iff c).trans (exists_decode_eq_ok_iff c).symm⟩

/-- Settles O2: an encoded word is its instruction's match word. -/
theorem decodeOfEncode : Obligations.DecodeOfEncode := fun i =>
  (decode_eq_ok_iff_toNat (encode i) i).mpr (encode_toNat i)

end Sys2Proof

namespace Sys2Proof.Machine

/-- The engine completes a word that does not decode with CODE 1 (R115). -/
theorem engineTurn_illegal {s : State} {p : Pending} {e : IllegalWord} (hp : s.pending = some p)
    (hd : decode p.word = .error e) : engineTurn s = .next (s.complete .illegal) := by
  simp [engineTurn, hp, hd]

/-- Settles O4: the word is outside the opcode map, so it does not decode. -/
theorem illegalWordCompletesWithCodeOne : Obligations.IllegalWordCompletesWithCodeOne := by
  intro s p hp hword
  cases hd : decode p.word with
  | ok i =>
    have := (exists_decode_eq_ok_iff p.word).mp ⟨i, hd⟩
    omega
  | error e =>
    rw [engineTurn_illegal hp hd]
    simp [State.complete, Status.complete]

end Sys2Proof.Machine

/-! The word writes of `wrbuf` (R97): each lane in turn writes the next byte, if it is one of the list's. -/

namespace Sys2Proof.Machine

/-- Writing one more byte after a run of writes. -/
theorem Memory.writeAll_concat (m : List Host.Cell) (a : Nat) (bs : List Byte) (b : Byte) :
    Memory.writeAll m a (bs ++ [b]) = Memory.write (Memory.writeAll m a bs) (a + bs.length) b := by
  induction bs generalizing m a with
  | nil => rfl
  | cons b' bs ih =>
    simp only [List.cons_append, Memory.writeAll, ih, List.length_cons]
    congr 1
    omega

/-- `m` with those bytes of `bs` written from offset `n` that lie below offset `a`: the buffer in the middle of a
`wrbuf n, bs` (R97). -/
def wrbufUpTo (m : List Host.Cell) (n : Nat) (bs : List Byte) (a : Nat) : List Host.Cell :=
  Memory.writeAll m n (bs.take (a - n))

/-- Up to its first offset a `wrbuf` has written nothing. -/
theorem wrbufUpTo_start (m : List Host.Cell) {n : Nat} (bs : List Byte) {a : Nat} (h : a ≤ n) :
    wrbufUpTo m n bs a = m := by
  simp [wrbufUpTo, Nat.sub_eq_zero_of_le h, Memory.writeAll]

/-- Past its last offset a `wrbuf` has written all its bytes. -/
theorem wrbufUpTo_end (m : List Host.Cell) {n : Nat} {bs : List Byte} {a : Nat} (h : n + bs.length ≤ a) :
    wrbufUpTo m n bs a = Memory.writeAll m n bs := by
  rw [wrbufUpTo, List.take_of_length_le (by omega)]

/-- One lane of a `wrbuf` word writes the next byte: the one at its own offset, where that is in the range (R97). -/
theorem writeLane_wrbufUpTo {size n : Nat} {bs : List Byte} (hsize : n + bs.length ≤ size) (m : List Host.Cell)
    (w j : Nat) :
    writeLane size (wrbufUpTo m n bs (w + j)) (w + j) (wrbufStrobe n bs w j) (wrbufLane n bs w j)
      = wrbufUpTo m n bs (w + (j + 1)) := by
  by_cases hin : n ≤ w + j ∧ w + j < n + bs.length
  · have hlt : w + j - n < bs.length := by omega
    have hstrobe : wrbufStrobe n bs w j = true := by simp [wrbufStrobe, hin]
    have hnext : bs.take (w + (j + 1) - n) = bs.take (w + j - n) ++ [wrbufLane n bs w j] := by
      rw [show w + (j + 1) - n = w + j - n + 1 by omega, List.take_succ_eq_append_getElem hlt, wrbufLane,
        if_pos hstrobe, List.getD_eq_getElem _ _ hlt]
    have hoffset : n + (bs.take (w + j - n)).length = w + j := by
      rw [List.length_take]
      omega
    rw [wrbufUpTo, wrbufUpTo, hnext, Memory.writeAll_concat, hoffset, writeLane, hstrobe,
      if_pos (by simp; omega)]
  · have hstrobe : wrbufStrobe n bs w j = false := by simpa [wrbufStrobe] using hin
    have hsame : bs.take (w + (j + 1) - n) = bs.take (w + j - n) := by
      rcases Nat.lt_or_ge (w + j) n with hbelow | habove
      · rw [Nat.sub_eq_zero_of_le (by omega), Nat.sub_eq_zero_of_le (by omega)]
      · rw [List.take_of_length_le (by omega), List.take_of_length_le (by omega)]
    simp [writeLane, hstrobe, wrbufUpTo, hsame]

/-- A strobe word built lane by lane has each lane's strobe (R60). -/
theorem getLsbD_fourStrobes (a b c d : Bool) {k : Nat} (hk : k < 4) :
    (BitVec.ofBool a ++ BitVec.ofBool b ++ BitVec.ofBool c ++ BitVec.ofBool d : BitVec (1 + 1 + 1 + 1)).getLsbD k
      = if k = 0 then d else if k = 1 then c else if k = 2 then b else a := by
  revert a b c d
  interval_cases k <;> decide

/-- One operation of a `wrbuf` is a word write whose data and strobes are those of its four lanes (R97). -/
theorem wrbufWord_lanes (n : Nat) (bs : List Byte) (w : Nat) :
    ∃ d strb, wrbufWord n bs w = .wr (BitVec.ofNat 17 (0x10000 + w)) d strb
      ∧ (∀ k < 4, lane d k = wrbufLane n bs w k) ∧ ∀ k < 4, strb.getLsbD k = wrbufStrobe n bs w k := by
  refine ⟨_, _, rfl, fun k hk => ?_, fun k hk => ?_⟩
  · refine (lane_fourBytes _ _ _ _ hk).trans ?_
    interval_cases k <;> rfl
  · refine (getLsbD_fourStrobes _ _ _ _ hk).trans ?_
    interval_cases k <;> rfl

/-- One word of a `wrbuf` writes the bytes of that word's range (R62, R97). -/
theorem writeWindow_wrbufUpTo {size n : Nat} {bs : List Byte} (hsize : n + bs.length ≤ size) (m : List Host.Cell)
    {w : Nat} {d : Word} {strb : Strobe} (hd : ∀ k < 4, lane d k = wrbufLane n bs w k)
    (hstrb : ∀ k < 4, strb.getLsbD k = wrbufStrobe n bs w k) :
    writeWindow size (wrbufUpTo m n bs w) w d strb = wrbufUpTo m n bs (w + 4) := by
  have hlane := writeLane_wrbufUpTo hsize m w
  have hfirst := hlane 0
  rw [Nat.add_zero] at hfirst
  rw [writeWindow, hd 0 (by omega), hd 1 (by omega), hd 2 (by omega), hd 3 (by omega), hstrb 0 (by omega),
    hstrb 1 (by omega), hstrb 2 (by omega), hstrb 3 (by omega), hfirst, hlane 1, hlane 2, hlane 3]

/-- While idle, the host's turn on one operation of a `wrbuf` writes the bytes of that word's range (R62, R97). -/
theorem hostTurn_wrbufWord {s : State} {n : Nat} {bs : List Byte} {m : List Host.Cell} {rest : List HostOp} {w : Nat}
    (hidle : s.status.busy = false) (hsize : n + bs.length ≤ s.cfg.bufSize) (halign : w % 4 = 0) (hw : w < 0x10000)
    (hbuf : s.buf = wrbufUpTo m n bs w) (hp : s.program = wrbufWord n bs w :: rest) :
    hostTurn s = { s with buf := wrbufUpTo m n bs (w + 4), program := rest } := by
  obtain ⟨d, strb, hop, hd, hstrb⟩ := wrbufWord_lanes n bs w
  obtain ⟨_, hwr, _⟩ := hostTurnMakesOneAccess s rest
  have ht : target (BitVec.ofNat 17 (0x10000 + w)) = .window w := target_window (by
    rw [BitVec.toNat_ofNat]
    omega)
  rw [hwr _ d strb (hp.trans (by rw [hop])), s.hostWrite_window ht hidle, hbuf, writeWindow_wrbufUpTo hsize m hd hstrb]

/-- While idle, the turns on the first `k` words from word `q` on write the bytes below the word they stop at, by
induction on the number of words (R97). -/
theorem hostTurn_iterate_wrbufWords {s : State} {n q : Nat} {bs : List Byte} (hidle : s.status.busy = false)
    (hsize : n + bs.length ≤ s.cfg.bufSize) (hq : 4 * q ≤ n) (k : Nat) (rest : List HostOp)
    (hk : 4 * (q + k) ≤ 0x10000)
    (hp : s.program = (List.range k).map (fun j => wrbufWord n bs (4 * (q + j))) ++ rest) :
    hostTurn^[k] s = { s with buf := wrbufUpTo s.buf n bs (4 * (q + k)), program := rest } := by
  induction k generalizing rest with
  | zero =>
    have hp' : s.program = rest := hp
    rw [← hp', Nat.add_zero, wrbufUpTo_start _ _ hq, Function.iterate_zero_apply]
  | succ k ih =>
    rw [Function.iterate_succ_apply', ih (wrbufWord n bs (4 * (q + k)) :: rest) (by omega)
      (by simpa [List.range_succ] using hp)]
    exact hostTurn_wrbufWord (w := 4 * (q + k)) hidle hsize (by omega) (by omega) rfl rfl

/-- While idle, the host's turns on a `wrbuf` that fits the buffer write its bytes and nothing else (R97). -/
theorem hostTurn_iterate_opWrbuf {s : State} {n : Nat} {bs : List Byte} {rest : List HostOp}
    (hmax : s.cfg.bufSize ≤ 0x10000) (hidle : s.status.busy = false) (hsize : n + bs.length ≤ s.cfg.bufSize)
    (hp : s.program = opWrbuf n bs ++ rest) :
    hostTurn^[(opWrbuf n bs).length] s = { s.writeBytes n bs with program := rest } := by
  unfold opWrbuf at hp ⊢
  split at hp
  next hnil =>
    rw [List.length_eq_zero_iff.mp hnil, ← List.nil_append rest, ← hp]
    rfl
  next hne =>
    rw [if_neg hne, List.length_map, List.length_range,
      hostTurn_iterate_wrbufWords hidle hsize (by omega) _ rest (by omega) hp, wrbufUpTo_end _ (by omega)]
    rfl

/-- Settles O60. -/
theorem wrbufWritesItsBytes : Obligations.WrbufWritesItsBytes := by
  intro s n bs rest hwf hidle hsize hp
  have hmax : s.cfg.bufSize ≤ 0x10000 := by
    simp only [Config.wf, Bool.and_eq_true, decide_eq_true_eq] at hwf
    omega
  rw [hostTurn_iterate_opWrbuf hmax hidle hsize hp]
  refine ⟨rfl, fun x => (s.byteAt_writeBytes n bs x).trans ?_⟩
  split_ifs with hx
  · exact (List.getD_eq_getElem _ _ (by omega)).symm
  · rfl

end Sys2Proof.Machine

/-! The engine step: when it is due, and that it completes every command it runs (R111 to R114, R118). -/

namespace Sys2Proof.Machine

open Sys2Proof.Safety

/-! ### Whose step it is -/

/-- With the schedule exhausted there is no turn to take off. -/
theorem State.dropTurn_of_nil {s : State} (h : s.turns = []) : s.dropTurn = s := by
  simp only [State.dropTurn, h, List.tail_nil]
  rw [← h]

/-- A schedule's first turn is the one taken off. -/
theorem State.dropTurn_of_cons {s : State} {a : Agent} {ts : List Agent} (h : s.turns = a :: ts) :
    s.dropTurn = { s with turns := ts } := by
  rw [State.dropTurn, h, List.tail_cons]

/-- The agent of a schedule's first turn moves next (R75, R111). -/
theorem State.nextAgent_of_cons {s : State} {a : Agent} {ts : List Agent} (h : s.turns = a :: ts) :
    s.nextAgent = some a := by
  simp [State.nextAgent, h]

/-- With the schedule exhausted and a command in flight the engine moves next (R111). -/
theorem State.nextAgent_of_pending {s : State} (h : s.turns = []) (hp : s.pending.isSome = true) :
    s.nextAgent = some .engine := by
  obtain ⟨p, hp⟩ := Option.isSome_iff_exists.mp hp
  simp [State.nextAgent, h, hp]

/-- With the schedule exhausted and PENDING empty a host that has an operation left moves next (R111, R123). -/
theorem State.nextAgent_of_program {s : State} (h : s.turns = []) (hp : s.pending = none) (hprog : s.program ≠ []) :
    s.nextAgent = some .host := by
  obtain ⟨op, rest, hprog⟩ := List.exists_cons_of_ne_nil hprog
  simp [State.nextAgent, h, hp, hprog]

/-- On the engine's turn a step is the engine's (R111). -/
theorem step_of_engine {s : State} (hwf : s.cfg.wf = true) (ha : s.nextAgent = some .engine) :
    step s = engineTurn s.dropTurn := by
  simp [step, runTurn, hwf, ha]

/-- On the host's turn a step is the host's (R111). -/
theorem step_of_host {s : State} (hwf : s.cfg.wf = true) (ha : s.nextAgent = some .host) :
    step s = .next (hostTurn s.dropTurn) := by
  simp [step, runTurn, hwf, ha]

/-- The engine runs the instruction PENDING's word decodes to (R112). -/
theorem engineTurn_legal {s : State} {p : Pending} {i : Instr} (hp : s.pending = some p)
    (hd : decode p.word = .ok i) : engineTurn s = exec i s := by
  simp [engineTurn, hp, hd]

/-- Settles O5: `nextAgent` names the agent, and the turn taken off is the schedule's first, if it has one. -/
theorem stepRunsTheNextAgentsTurn : Obligations.StepRunsTheNextAgentsTurn := by
  intro s hwf
  have hexhausted : s.turns = [] → s.pending.isSome = true → step s = engineTurn s := fun h hp => by
    rw [step_of_engine hwf (State.nextAgent_of_pending h hp), State.dropTurn_of_nil h]
  have hengine : ∀ ts, s.turns = .engine :: ts → step s = engineTurn { s with turns := ts } := fun ts h => by
    rw [step_of_engine hwf (State.nextAgent_of_cons h), State.dropTurn_of_cons h]
  refine ⟨fun p i hp hd => ⟨fun h => ?_, fun ts h => ?_⟩, hexhausted, hengine, fun h hp hprog => ?_, fun ts h => ?_⟩
  · rw [hexhausted h (by simp [hp]), engineTurn_legal hp hd]
  · exact (hengine ts h).trans (engineTurn_legal hp hd)
  · rw [step_of_host hwf (State.nextAgent_of_program h hp hprog), State.dropTurn_of_nil h]
  · rw [step_of_host hwf (State.nextAgent_of_cons h), State.dropTurn_of_cons h]

/-! ### Completion -/

/-- A completion's effects, field by field (R113). -/
theorem State.complete_eq (s : State) (c : CompletionCode) :
    s.complete c =
      { s with
        status := { s.status with
          code := c, err := if c = .ok then s.status.err else true, done := true, busy := false }
        pending := none } := by
  cases c <;> simp [State.complete, Status.complete]

/-- Settles O20: completion by its record, every engine step by `engineTurn_frame`, and ERR by its writers. -/
theorem completionEffects : Obligations.CompletionEffects := by
  refine ⟨State.complete_eq, fun s p hwf hp => ?_, fun s t hstep hset hclear => ?_⟩
  · obtain ⟨t, ht⟩ := engineTurn_answers hwf
    obtain ⟨hpending, hbusy, hdone, _, _, _, herr, _⟩ := engineTurn_frame hp ht
    exact ⟨t, ht, hdone, hbusy, hpending, by simp [herr]⟩
  · by_cases hreset : s.nextAgent = some .reset
    · exact .inr hreset
    · obtain ⟨_, _, herr, _⟩ := flagsHaveOnlyTheirWriters s t hstep hreset
      obtain ⟨hack, _⟩ | ⟨_, _, herr⟩ := herr (by simp [hset, hclear])
      · exact .inl hack
      · simp [hclear] at herr

/-! ### The range check and the codes of a command -/

/-- The range check is the printed table (R114). -/
theorem inRange_iff_fits (size : Nat) (p : Pending) (i : Instr) : inRange size p i = true ↔ fits size p i := by
  cases i <;> simp [inRange, fits]

/-- Out of range every command completes with CODE 2 (R114). -/
theorem exec_truncated {i : Instr} {s : State} {p : Pending} (hwf : s.cfg.wf = true) (hp : s.pending = some p)
    (hr : inRange s.cfg.bufSize p i = false) : exec i s = .next (s.complete .truncated) := by
  cases i <;> exact runCommand_truncated hwf hp hr

/-- How a command ends, by its CODE (R113, R114, R118, R178): TRUNCATED only out of range, INVALID_BCD only with the
BCD flags written, else 0. -/
theorem exec_code_cases {i : Instr} {s t : State} {p : Pending} (hp : s.pending = some p) (h : exec i s = .next t) :
    (inRange s.cfg.bufSize p i = false ∧ t = s.complete .truncated)
    ∨ (inRange s.cfg.bufSize p i = true ∧ t.status.code = .ok)
    ∨ (inRange s.cfg.bufSize p i = true ∧ t.status.code = .invalidBcd
        ∧ ∃ bd bdoy bt, t = { s with status := { s.status with
            bcdOk := false, bcdBadDigit := bd, bcdBadDoy := bdoy, bcdBadTime := bt } }.complete .invalidBcd) := by
  cases i
  case bcdDecode =>
    obtain ⟨_, q, hq, ⟨hr, rfl⟩ | ⟨hr, _, f, bd, bdoy, bt, _, _, _, _, _, rfl⟩⟩ := execBcdDecode_next h <;>
      obtain rfl : p = q := Option.some.inj (hp.symm.trans hq)
    · exact .inl ⟨hr, rfl⟩
    · obtain ⟨_, h⟩ | ⟨_, h⟩ := s.finishBcd_cases f bd bdoy bt <;> rw [h]
      · exact .inr (.inr ⟨hr, rfl, bd, bdoy, bt, by simp [State.complete_eq]⟩)
      · exact .inr (.inl ⟨hr, rfl⟩)
  all_goals
    obtain ⟨_, q, hq, ⟨hr, rfl⟩ | ⟨hr, rfl⟩⟩ := runCommand_next h <;>
      obtain rfl : p = q := Option.some.inj (hp.symm.trans hq)
    · exact .inr (.inl ⟨hr, rfl⟩)
    · exact .inl ⟨hr, rfl⟩

/-- Settles O19: the table's row is the command's range check. -/
theorem rangeCheckTable : Obligations.RangeCheckTable := by
  intro i s p hwf hp
  rw [← inRange_iff_fits, Bool.not_eq_true]
  refine ⟨fun hr => ?_, fun hr => ?_⟩
  · rw [exec_truncated hwf hp hr, State.complete_eq]
    rfl
  · obtain ⟨t, ht⟩ := exec_completes i hwf hp
    refine ⟨t, ht, ?_⟩
    obtain ⟨hout, _⟩ | ⟨_, hcode⟩ | ⟨_, hcode, _⟩ := exec_code_cases hp ht
    · simp [hr] at hout
    · simp [hcode]
    · simp [hcode]

/-- Settles O21: CODE tells the end the command came to, and each failing end is a completion that wrote no result. -/
theorem failureLeavesResults : Obligations.FailureLeavesResults := by
  intro s t p hp h
  obtain ⟨h0, _⟩ | ⟨_, _, _, _, rfl⟩ | ⟨_, i, _, _, h⟩ := engineTurn_next h
  · simp [hp] at h0
  · simp [State.complete_eq]
  · obtain ⟨_, rfl⟩ | ⟨_, hcode⟩ | ⟨_, _, bd, bdoy, bt, rfl⟩ := exec_code_cases hp h
    · simp [State.complete_eq]
    · simp [hcode]
    · simp [State.complete_eq]

end Sys2Proof.Machine

/-! Host writes to the command registers: acceptance while idle, and what is dropped while BUSY (R110, R116). -/

namespace Sys2Proof.Machine

/-- The strobed data of a write to CMD, from its bits (R25, R66). -/
theorem and_laneMask_eq_of_bits {c d : Word} {strb : Strobe}
    (h : ∀ k, k < 32 → c.getLsbD k = (d.getLsbD k && strb.getLsbD (k / 8))) : d &&& laneMask strb = c :=
  BitVec.eq_of_getLsbD_eq fun k hk => by rw [BitVec.getLsbD_and, getLsbD_laneMask _ hk, h k hk]

/-- Settles O31: nothing is held while idle, so the write is `accept` of the strobed data. -/
theorem acceptCommand : Obligations.AcceptCommand := by
  intro s a d c strb hlo hhi hstrb hidle hc
  have ht : target a = .reg .cmd := target_reg .cmd hlo hhi
  calc s.hostWrite a d strb = s.accept (d &&& laneMask strb) := by
        simp [State.hostWrite, hstrb, hidle, ht, State.writeReg]
    _ = s.accept c := by rw [and_laneMask_eq_of_bits hc]

/-- The writes held while BUSY are those at CMD, ADDR, LEN, DST and the window (R116). -/
theorem heldWhileBusy_iff (a : WinAddr) :
    (target a).heldWhileBusy = true ↔ 0x0C ≤ a.toNat ∧ a.toNat < 0x1C ∨ 0x10000 ≤ a.toNat := by
  refine ⟨range_of_heldWhileBusy, fun ha => ?_⟩
  obtain ⟨r, hlo, hhi, ht⟩ | ⟨hres, _⟩ | ⟨_, _, ht⟩ := target_cases a
  · rw [ht]
    cases r
    case cmd | addr | len | dst => rfl
    all_goals
      simp only [Reg.offset] at hlo hhi
      omega
  · omega
  · rw [ht]
    rfl

/-- While BUSY a strobed write to a held target only sets OVERRUN (R116). -/
theorem State.hostWrite_dropped (s : State) {a : WinAddr} {strb : Strobe} (hstrb : strb ≠ 0#4)
    (hbusy : s.status.busy = true) (hheld : (target a).heldWhileBusy = true) (d : Word) :
    s.hostWrite a d strb = { s with status := s.status.drop } := by
  simp [State.hostWrite, hstrb, hbusy, hheld]

/-- Of all registers only STATUS shows BUSY (R20, R23). -/
theorem State.readReg_setBusy (s : State) {r : Reg} (hr : r ≠ .status) (b : Bool) :
    { s with status := { s.status with busy := b } }.readReg r = s.readReg r := by
  cases r
  case status => contradiction
  all_goals rfl

/-- A read of anything but STATUS does not see BUSY (R62 to R64, R116). -/
theorem State.hostRead_setBusy (s : State) {a : WinAddr} (ha : target a ≠ .reg .status) (b : Bool) :
    { s with status := { s.status with busy := b } }.hostRead a = s.hostRead a := by
  unfold State.hostRead
  split
  · next r ht => exact s.readReg_setBusy (fun hr => ha (by rw [ht, hr])) b
  · rfl
  · rfl

/-- Settles O32, one clause a kind of target. -/
theorem writesWhileBusy : Obligations.WritesWhileBusy := by
  intro s a d strb hbusy hstrb
  refine ⟨fun ha => s.hostWrite_dropped hstrb hbusy ((heldWhileBusy_iff a).mpr ha) d, fun ⟨hlo, hhi⟩ => ?_,
    fun ⟨hlo, hhi⟩ => ?_, (s.hostWrite_effect a d strb).eq_self, fun ha => ?_⟩
  · have ht : target a = .reg .ctrl := target_reg .ctrl hlo hhi
    rw [s.hostWrite_reg ht (by decide) (by simp [ht, Target.heldWhileBusy]), State.writeReg, writeCtrl_bit]
  · have ht : target a = .reg .status := target_reg .status hlo hhi
    rw [s.hostWrite_reg ht (by decide) (by simp [ht, Target.heldWhileBusy]), State.writeReg, Status.clear_strobed]
  · have hne : target a ≠ .reg .status := fun ht => by
      obtain ⟨hlo, hhi⟩ := target_eq_reg ht
      simp only [Reg.offset] at hlo hhi
      omega
    exact (s.hostRead_setBusy hne false).symm

end Sys2Proof.Machine

/-! What an engine step depends on: the command in flight, the parameters, the buffer's bytes and the results it leaves
as they were (R112, R116, R121). -/

namespace Sys2Proof.Machine

open Sys2Proof.Safety

/-- The result registers, CODE and the validity flags of a state: its results but for the buffer. -/
def registersOf (s : State) : Results := { resultsOf s with buf := [], draws := 0 }

/-- Two states that show the engine the same: the same parameters, the same command in flight, the same bytes in the
buffer and the same results so far (R112). -/
structure SameForEngine (p : Pending) (s s' : State) : Prop where
  cfg : s.cfg = s'.cfg
  pending_left : s.pending = some p
  pending_right : s'.pending = some p
  bytes : ∀ x, x < s.cfg.bufSize → s.byteAt x = s'.byteAt x
  registers : registersOf s = registersOf s'

/-- The bytes a command writes to the buffer from DST on: PB_DECODE's output in range, else none (R114, R201). -/
def bytesWritten (i : Instr) (s : State) (p : Pending) : List Byte :=
  if i = .pbDecode ∧ inRange s.cfg.bufSize p i = true then (s.bytes p.addr.toNat p.len.toNat).map stripParity
  else []

/-- The buffer after a command (R41, R201). -/
theorem exec_buf_eq {i : Instr} {s t : State} {p : Pending} (hp : s.pending = some p) (h : exec i s = .next t) :
    t.buf = (s.writeBytes p.dst.toNat (bytesWritten i s p)).buf := by
  by_cases hi : i = .pbDecode
  · subst hi
    obtain ⟨_, q, hq, ⟨hr, rfl⟩ | ⟨hr, rfl⟩⟩ := runCommand_next h <;>
      obtain rfl : p = q := Option.some.inj (hp.symm.trans hq)
    · simp [bytesWritten, hr]
    · simp [bytesWritten, hr, Memory.writeAll]
  · obtain hb | ⟨_, hpb, _⟩ := exec_buf h
    · simp [bytesWritten, hi, hb, Memory.writeAll]
    · exact absurd hpb hi

/-- A byte after a command. -/
theorem exec_byteAt_eq {i : Instr} {s t : State} {p : Pending} (hp : s.pending = some p) (h : exec i s = .next t)
    (x : Nat) : t.byteAt x = (s.writeBytes p.dst.toNat (bytesWritten i s p)).byteAt x := by
  obtain ⟨_, _, _, _, _, _, hdraws, _⟩ := exec_frame h
  rw [State.byteAt, State.byteAt, exec_buf_eq hp h, hdraws, State.writeBytes_draws]

section
variable {i : Instr} {p : Pending} {s s' t t' : State} {body body' : Pending → State}

/-- States that show the engine the same read the same bytes of a range inside the buffer. -/
theorem SameForEngine.bytes_eq (hs : SameForEngine p s s') {a n : Nat} (h : a + n ≤ s.cfg.bufSize) :
    s.bytes a n = s'.bytes a n :=
  State.bytes_congr fun x _ hx => hs.bytes x (by omega)

/-- States that show the engine the same read the same stored value inside the buffer. -/
theorem SameForEngine.memRead_eq (hs : SameForEngine p s s') {a n : Nat} (h : a + n ≤ s.cfg.bufSize) :
    s.memRead a n = s'.memRead a n :=
  State.memRead_congr fun x _ hx => hs.bytes x (by omega)

/-- The same command passes or fails its range check in both states (R114). -/
theorem SameForEngine.runCommand_cases (hs : SameForEngine p s s') (h : runCommand i s body = .next t)
    (h' : runCommand i s' body' = .next t') :
    (inRange s.cfg.bufSize p i = true ∧ t = body p ∧ t' = body' p)
      ∨ (t = s.complete .truncated ∧ t' = s'.complete .truncated) := by
  obtain ⟨hwf, _⟩ := runCommand_next h
  have hwf' : s'.cfg.wf = true := hs.cfg ▸ hwf
  cases hr : inRange s.cfg.bufSize p i
  · have hr' : inRange s'.cfg.bufSize p i = false := hs.cfg ▸ hr
    rw [runCommand_truncated hwf hs.pending_left hr] at h
    rw [runCommand_truncated hwf' hs.pending_right hr'] at h'
    cases h; cases h'
    exact .inr ⟨rfl, rfl⟩
  · have hr' : inRange s'.cfg.bufSize p i = true := hs.cfg ▸ hr
    rw [runCommand_inRange hwf hs.pending_left hr] at h
    rw [runCommand_inRange hwf' hs.pending_right hr'] at h'
    cases h; cases h'
    exact .inl ⟨rfl, rfl, rfl⟩

/-- A completion writes the same CODE in both states. -/
theorem registersOf_complete (h : registersOf s = registersOf s') (c : CompletionCode) :
    registersOf (s.complete c) = registersOf (s'.complete c) :=
  congrArg (fun r : Results => { r with code := c }) h

/-- The end of BCD_DECODE writes the same timestamp and flags in both states. -/
theorem registersOf_finishBcd (h : registersOf s = registersOf s') (hcfg : s.cfg = s'.cfg) (f : BcdFields)
    (bd bdoy bt : Bool) : registersOf (s.finishBcd f bd bdoy bt) = registersOf (s'.finishBcd f bd bdoy bt) := by
  unfold State.finishBcd
  have hflags := congrArg (fun r : Results => { r with
    bcdOk := !(bd || bdoy || bt), bcdBadDigit := bd, bcdBadDoy := bdoy, bcdBadTime := bt }) h
  split
  · exact registersOf_complete hflags .invalidBcd
  · rw [← hcfg]
    exact registersOf_complete (congrArg (fun r : Results => { r with ts := timestampOf s.cfg f }) hflags) .ok

/-- A command writes the same result registers, CODE and validity flags in both states: the bytes it reads lie in the
range it has checked (R112, R114). -/
theorem SameForEngine.exec_registers (hs : SameForEngine p s s') (h : exec i s = .next t)
    (h' : exec i s' = .next t') : registersOf t = registersOf t' := by
  cases i
  all_goals
    obtain ⟨hr, rfl, rfl⟩ | ⟨rfl, rfl⟩ := hs.runCommand_cases h h'
    case inr => exact registersOf_complete hs.registers .truncated
    simp only [inRange, Bool.and_eq_true, decide_eq_true_eq] at hr
  case crc32Calc =>
    have hcrc : rangeCrc32 s p = rangeCrc32 s' p := congrArg crc32 (hs.bytes_eq hr)
    refine registersOf_complete ?_ .ok
    rw [hcrc]
    exact congrArg (fun r : Results => { r with crc32Result := rangeCrc32 s' p }) hs.registers
  case crc32Check =>
    have hcrc : rangeCrc32 s p = rangeCrc32 s' p := congrArg crc32 (hs.bytes_eq (by omega))
    have hstored : storedCrc32 s p = storedCrc32 s' p := hs.memRead_eq hr
    refine registersOf_complete ?_ .ok
    rw [hcrc, hstored]
    exact congrArg (fun r : Results => { r with
      crc32Result := rangeCrc32 s' p, crc32Stored := storedCrc32 s' p
      crc32Ok := rangeCrc32 s' p == storedCrc32 s' p }) hs.registers
  case crc16Calc =>
    have hcrc : rangeCrc16 s p = rangeCrc16 s' p := congrArg crc16 (hs.bytes_eq hr)
    refine registersOf_complete ?_ .ok
    rw [hcrc]
    exact congrArg (fun r : Results => { r with crc16Result := rangeCrc16 s' p }) hs.registers
  case crc16Check =>
    have hcrc : rangeCrc16 s p = rangeCrc16 s' p := congrArg crc16 (hs.bytes_eq (by omega))
    have hstored : storedCrc16 s p = storedCrc16 s' p := hs.memRead_eq hr
    refine registersOf_complete ?_ .ok
    rw [hcrc, hstored]
    exact congrArg (fun r : Results => { r with
      crc16Result := rangeCrc16 s' p, crc16Stored := storedCrc16 s' p
      crc16Ok := rangeCrc16 s' p == storedCrc16 s' p }) hs.registers
  case bcdDecode =>
    simp only [hs.bytes_eq hr, hs.cfg]
    exact registersOf_finishBcd hs.registers hs.cfg ..
  case pbDecode => exact registersOf_complete hs.registers .ok

/-- A command writes the same bytes to the buffer in both states. -/
theorem SameForEngine.bytesWritten_eq (hs : SameForEngine p s s') (i : Instr) :
    bytesWritten i s p = bytesWritten i s' p := by
  unfold bytesWritten
  rw [← hs.cfg]
  split
  · next h =>
    obtain ⟨rfl, hr⟩ := h
    simp only [inRange, Bool.and_eq_true, decide_eq_true_eq] at hr
    rw [hs.bytes_eq hr.1]
  · rfl

/-- Equal writes leave equal bytes equal. -/
theorem State.byteAt_writeBytes_congr {x : Nat} (h : s.byteAt x = s'.byteAt x) (a : Nat) (bs : List Byte) :
    (s.writeBytes a bs).byteAt x = (s'.writeBytes a bs).byteAt x := by
  rw [State.byteAt_writeBytes, State.byteAt_writeBytes, h]

/-- The engine's turns on states that show it the same have the same effects, whatever their list of written bytes; from
the same list they leave the same list (R112, R121). -/
theorem SameForEngine.engineTurn_effects (hs : SameForEngine p s s') (h : engineTurn s = .next t)
    (h' : engineTurn s' = .next t') :
    registersOf t = registersOf t' ∧ (∀ x, x < s.cfg.bufSize → t.byteAt x = t'.byteAt x)
      ∧ (s.buf = s'.buf → t.buf = t'.buf) := by
  cases hd : decode p.word with
  | error e =>
    rw [engineTurn_illegal hs.pending_left hd] at h
    rw [engineTurn_illegal hs.pending_right hd] at h'
    cases h; cases h'
    exact ⟨registersOf_complete hs.registers .illegal, hs.bytes, id⟩
  | ok i =>
    rw [engineTurn_legal hs.pending_left hd] at h
    rw [engineTurn_legal hs.pending_right hd] at h'
    refine ⟨hs.exec_registers h h', fun x hx => ?_, fun hbuf => ?_⟩
    · rw [exec_byteAt_eq hs.pending_left h, exec_byteAt_eq hs.pending_right h', hs.bytesWritten_eq]
      exact State.byteAt_writeBytes_congr (hs.bytes x hx) ..
    · rw [exec_buf_eq hs.pending_left h, exec_buf_eq hs.pending_right h', hs.bytesWritten_eq,
        State.writeBytes_buf, State.writeBytes_buf, hbuf]

end

/-- Settles O57. -/
theorem engineStepIsDeterministic : Obligations.EngineStepIsDeterministic := by
  intro s s' t t' p hcfg hp hp' hbytes hregisters h h'
  have hs : SameForEngine p s s' := ⟨hcfg, hp, hp', hbytes, hregisters⟩
  obtain ⟨hr, hb, _⟩ := hs.engineTurn_effects h h'
  exact ⟨hr, hb⟩

/-- No engine step makes a new draw (R241). -/
theorem engineTurn_draws {s t : State} (h : engineTurn s = .next t) : t.draws = s.draws := by
  obtain ⟨_, rfl⟩ | ⟨_, _, _, _, rfl⟩ | ⟨_, _, _, _, h⟩ := engineTurn_next h
  · rfl
  · rfl
  · obtain ⟨_, _, _, _, _, _, hdraws, _⟩ := exec_frame h
    exact hdraws

/-- Equal registers, written bytes and draws are equal results. -/
theorem resultsOf_eq {s s' : State} (hr : registersOf s = registersOf s') (hbuf : s.buf = s'.buf)
    (hdraws : s.draws = s'.draws) : resultsOf s = resultsOf s' :=
  calc resultsOf s = { registersOf s with buf := s.buf, draws := s.draws } := rfl
    _ = resultsOf s' := by rw [hr, hbuf, hdraws]; rfl

/-- While BUSY any number of host turns leaves the parameters, the command in flight and the results (R78, R116), by
induction on the number. -/
theorem hostTurn_iterate_keeps_flight {s : State} (hbusy : s.status.busy = true) (n : Nat) :
    (hostTurn^[n] s).cfg = s.cfg ∧ (hostTurn^[n] s).pending = s.pending
      ∧ resultsOf (hostTurn^[n] s) = resultsOf s ∧ (hostTurn^[n] s).status.busy = true := by
  induction n with
  | zero => exact ⟨rfl, rfl, rfl, hbusy⟩
  | succ n ih =>
    obtain ⟨hcfg, hp, hres, hb⟩ := ih
    obtain ⟨hcfg', _⟩ := hostTurn_keeps_pending (hostTurn^[n] s)
    obtain ⟨hp', _, _, _, _, hres', hb'⟩ := busyHostTurnsLeaveCommandAndResults (hostTurn^[n] s) hb
    rw [Function.iterate_succ_apply']
    exact ⟨hcfg'.trans hcfg, hp'.trans hp, hres'.trans hres, hb'⟩

/-- Settles O56: the host's turns leave all that the engine's step depends on. -/
theorem resultIndependentOfSchedule : Obligations.ResultIndependentOfSchedule := by
  intro s t p n hwf hbusy hp ht
  obtain ⟨hcfg, hpending, hresults, _⟩ := hostTurn_iterate_keeps_flight hbusy n
  obtain ⟨u, hu⟩ := engineTurn_answers (s := hostTurn^[n] s) (by rw [hcfg]; exact hwf)
  have hs : SameForEngine p (hostTurn^[n] s) s :=
    ⟨hcfg, hpending.trans hp, hp, fun x _ => State.byteAt_of_resultsOf hresults x,
      congrArg (fun r : Results => { r with buf := [], draws := 0 }) hresults⟩
  obtain ⟨hregisters, _, hbuf⟩ := hs.engineTurn_effects hu ht
  have hdraws : u.draws = t.draws := by
    rw [engineTurn_draws hu, engineTurn_draws ht]
    exact congrArg Results.draws hresults
  exact ⟨u, hu, resultsOf_eq hregisters (hbuf (congrArg Results.buf hresults)) hdraws⟩

end Sys2Proof.Machine

/-! The CRC-32 algorithm: its bit-serial form, its check values, and that every changed byte changes it (R130, R131,
R134). -/

namespace Sys2Proof.Machine

open Sys2Proof.Safety

/-! ### The bit-serial form -/

/-- Shifting a register with message bits XORed in feeds the lowest of them and leaves the others one place down. -/
theorem crc32Bit_xor (r m : Word) : crc32Bit (r ^^^ m) = crc32FeedBit r (m.getLsbD 0) ^^^ (m >>> 1) := by
  have hcond : (r ^^^ m).getLsbD 0 = (r.getLsbD 0 != m.getLsbD 0) := by simp
  rw [crc32Bit, crc32FeedBit, hcond, BitVec.ushiftRight_xor_distrib]
  split
  · rw [BitVec.xor_assoc, BitVec.xor_comm (m >>> 1), BitVec.xor_assoc]
  · rfl

/-- Message bits XORed in at once and shifted out are message bits fed one at a time, by induction on their number: the
bits not fed yet stay XORed on the register. -/
theorem crc32Bit_iterate_xor (r m : Word) (n : Nat) :
    crc32Bit^[n] (r ^^^ m) = ((List.range n).map fun k => m.getLsbD k).foldl crc32FeedBit r ^^^ (m >>> n) := by
  induction n with
  | zero => simp
  | succ n ih =>
    rw [Function.iterate_succ_apply', ih, crc32Bit_xor, ← BitVec.shiftRight_add, BitVec.getLsbD_ushiftRight,
      List.range_succ, List.map_append, List.foldl_append]
    rfl

/-- A byte into the running register is its 8 bits fed least significant first (R130). -/
theorem crc32Byte_eq_foldl (r : Word) (b : Byte) : crc32Byte r b = (bitsLsbFirst b).foldl crc32FeedBit r := by
  have hbits : ((List.range 8).map fun k => (b.setWidth 32).getLsbD k) = bitsLsbFirst b := rfl
  have hout : b.setWidth 32 >>> 8 = 0#32 := by
    apply BitVec.eq_of_toNat_eq
    simp [Nat.shiftRight_eq_div_pow]
    omega
  rw [crc32Byte, crc32Bit_iterate_xor, hbits, hout, BitVec.xor_zero]

/-- Settles O25: byte by byte, `crc32Byte_eq_foldl`. -/
theorem crc32IsBitSerialLsbFirst : Obligations.Crc32IsBitSerialLsbFirst := by
  intro bs
  simp only [crc32, List.foldl_flatMap, ← crc32Byte_eq_foldl]

/-! ### Changed bytes -/

/-- The bit shifted out comes back as the top bit, since the polynomial has its top bit set and a shift clears it. -/
theorem getLsbD_crc32Bit_top (r : Word) : (crc32Bit r).getLsbD 31 = r.getLsbD 0 := by
  rw [crc32Bit]
  split
  · next h => simpa using h.symm
  · next h => simpa using h

/-- One shift of the register loses nothing: the top bit tells whether the polynomial was XORed in, so the shifted
register, and with the bit shifted out the whole register, can be told from the outcome. -/
theorem crc32Bit_injective : Function.Injective crc32Bit := by
  intro r r' h
  have hlow : r.getLsbD 0 = r'.getLsbD 0 := by
    rw [← getLsbD_crc32Bit_top, ← getLsbD_crc32Bit_top, h]
  have hhigh : r >>> 1 = r' >>> 1 := by
    rw [crc32Bit, crc32Bit, hlow] at h
    split at h
    · exact (BitVec.xor_left_inj _).mp h
    · exact h
  apply BitVec.eq_of_getLsbD_eq
  intro i _
  cases i with
  | zero => exact hlow
  | succ i => simpa [Nat.add_comm] using congrArg (·.getLsbD i) hhigh

/-- The running register after a byte tells the register before it. -/
theorem crc32Byte_injective_register (b : Byte) : Function.Injective (crc32Byte · b) := fun _ _ h =>
  (BitVec.xor_left_inj _).mp (crc32Bit_injective.iterate 8 h)

/-- The running register after a byte tells the byte. -/
theorem crc32Byte_injective_byte (r : Word) : Function.Injective (crc32Byte r) := fun b b' h => by
  have hwide : b.setWidth 32 = b'.setWidth 32 := (BitVec.xor_right_inj _).mp (crc32Bit_injective.iterate 8 h)
  simpa using congrArg (BitVec.setWidth 8) hwide

/-- The register after any further bytes tells the register before them. -/
theorem foldl_crc32Byte_injective (bs : List Byte) : Function.Injective (bs.foldl crc32Byte) := by
  induction bs with
  | nil => exact Function.injective_id
  | cons b bs ih => exact ih.comp (crc32Byte_injective_register b)

/-- Two messages that differ in one byte alone have different CRCs (R134). -/
theorem crc32_append_cons_inj (pre post : List Byte) {b b' : Byte} :
    crc32 (pre ++ b :: post) = crc32 (pre ++ b' :: post) ↔ b = b' := by
  refine ⟨fun h => ?_, fun h => by rw [h]⟩
  simp only [crc32, List.foldl_append, List.foldl_cons, BitVec.xor_left_inj] at h
  exact crc32Byte_injective_byte _ (foldl_crc32Byte_injective post h)

/-- Replacing a byte changes the CRC exactly when it changes the byte (R134). -/
theorem crc32_set_eq_iff {bs : List Byte} {i : Nat} (h : i < bs.length) (b : Byte) :
    crc32 (bs.set i b) = crc32 bs ↔ b = bs[i] := by
  conv_lhs => rhs; rw [← List.set_getElem_self h]
  rw [List.set_eq_take_append_cons_drop, List.set_eq_take_append_cons_drop, if_pos h, if_pos h,
    crc32_append_cons_inj]

/-- Flipping a bit changes the byte. -/
theorem flipBit_ne (b : Byte) {k : Nat} (hk : k < 8) : b ^^^ (1#8 <<< k) ≠ b := by
  intro h
  have := congrArg (·.getLsbD k) h
  simp [hk] at this

/-- The lanes of the little-endian value of four buffer bytes are the bytes (R67). -/
theorem State.lane_memRead_four (s : State) (a : Nat) {k : Nat} (hk : k < 4) :
    lane (s.memRead a 4) k = s.byteAt (a + k) := by
  rw [State.memRead_four]
  refine (lane_fourBytes _ _ _ _ hk).trans ?_
  interval_cases k <;> rfl

/-- Settles O27: a flipped bit is a changed byte, and each stored byte is a lane of the stored value. -/
theorem crc32DetectsSingleBitFlips : Obligations.Crc32DetectsSingleBitFlips := by
  refine ⟨fun bs i k h hk => ?_, fun s s' a k hk hbyte hvalue => ?_, by decide +kernel⟩
  · exact (crc32_set_eq_iff h _).not.mpr (flipBit_ne _ hk)
  · apply hbyte
    rw [← s.lane_memRead_four a hk, ← s'.lane_memRead_four a hk, hvalue]

/-- The CRC of no bytes: the initial value and the final XOR cancel (R131). -/
theorem crc32_nil : crc32 [] = 0#32 := BitVec.xor_self

/-- Settles O24: closed values, evaluated. -/
theorem crcCheckValues : Obligations.CrcCheckValues :=
  ⟨by decide +kernel, by decide +kernel, crc32_nil, rfl, by decide, by decide⟩

end Sys2Proof.Machine

/-! The meanings of CRC32_CALC (R132) and CRC32_CHECK (R133). -/

namespace Sys2Proof.Machine

open Sys2Proof.Safety

/-- A command whose own part ends with CODE 0, in range: its record, completed (R112, R113). -/
theorem runCommand_ok {i : Instr} {s : State} {body : Pending → State} {p : Pending} (hwf : s.cfg.wf = true)
    (hp : s.pending = some p) (hfits : fits s.cfg.bufSize p i) :
    runCommand i s (fun q => (body q).complete .ok) = .next
      { body p with
        status := { (body p).status with code := .ok, done := true, busy := false }
        pending := none } := by
  rw [runCommand_inRange hwf hp ((inRange_iff_fits _ p i).mpr hfits), State.complete_eq]
  rfl

/-- A command out of range, by its row of R114's table. -/
theorem exec_outOfRange {i : Instr} {s : State} {p : Pending} (hwf : s.cfg.wf = true) (hp : s.pending = some p)
    (hout : ¬ fits s.cfg.bufSize p i) :
    exec i s = .next
      { s with
        status := { s.status with code := .truncated, err := true, done := true, busy := false }
        pending := none } := by
  obtain ⟨htruncated, _⟩ := rangeCheckTable i s p hwf hp
  exact htruncated hout

/-- Settles O9: the record CRC32_CALC writes in range, and R114's row for it out of range. -/
theorem crc32CalcResult : Obligations.Crc32CalcResult :=
  ⟨rfl, fun _ _ hwf hp hfits => runCommand_ok hwf hp hfits,
    fun _ _ hwf hp hout => exec_outOfRange hwf hp (Nat.not_le.mpr hout), fun _ _ => crc32_nil⟩

/-- Settles O11: the record CRC32_CHECK writes in range, and R114's row for it out of range. -/
theorem crc32CheckResult : Obligations.Crc32CheckResult :=
  ⟨rfl, fun _ _ hwf hp hfits => runCommand_ok hwf hp hfits,
    fun _ _ hwf hp hout => exec_outOfRange hwf hp (Nat.not_le.mpr hout)⟩

end Sys2Proof.Machine

/-! The CRC-16 algorithm: its bit-serial form (R150, R151), the bytes that change it (R155), and what it makes of its own
value, in either byte order (R152). -/

namespace Sys2Proof.Machine

open Sys2Proof.Safety

/-! ### The bit-serial form -/

/-- The register's top bit, counted from either end. -/
theorem getLsbD_last_eq_getMsbD_zero (r : Half) : r.getLsbD 15 = r.getMsbD 0 := by
  simp [BitVec.getMsbD_eq_getLsbD]

/-- Shifting a register with message bits XORed in feeds the highest of them and leaves the others one place up. -/
theorem crc16Bit_xor (r m : Half) : crc16Bit (r ^^^ m) = crc16FeedBit r (m.getMsbD 0) ^^^ (m <<< 1) := by
  have hcond : (r ^^^ m).getLsbD 15 = (r.getLsbD 15 != m.getMsbD 0) := by
    simp [← getLsbD_last_eq_getMsbD_zero]
  rw [crc16Bit, crc16FeedBit, hcond, BitVec.shiftLeft_xor_distrib]
  split
  · rw [BitVec.xor_assoc, BitVec.xor_comm (m <<< 1), BitVec.xor_assoc]
  · rfl

/-- Message bits XORed in at once and shifted out are message bits fed one at a time, by induction on their number: the
bits not fed yet stay XORed on the register. -/
theorem crc16Bit_iterate_xor (r m : Half) (n : Nat) :
    crc16Bit^[n] (r ^^^ m) = ((List.range n).map m.getMsbD).foldl crc16FeedBit r ^^^ (m <<< n) := by
  induction n with
  | zero => simp
  | succ n ih =>
    rw [Function.iterate_succ_apply', ih, crc16Bit_xor, ← BitVec.shiftLeft_add, BitVec.getMsbD_shiftLeft, Nat.zero_add,
      List.range_succ, List.map_append, List.foldl_append]
    rfl

/-- A byte into the running register is its 8 bits fed most significant first (R150). -/
theorem crc16Byte_eq_foldl (r : Half) (b : Byte) : crc16Byte r b = (bitsMsbFirst b).foldl crc16FeedBit r := by
  have hbits : (List.range 8).map (b.setWidth 16 <<< 8).getMsbD = bitsMsbFirst b :=
    List.map_congr_left fun k hk => by
      have hk := List.mem_range.mp hk
      interval_cases k <;> simp [BitVec.getMsbD_eq_getLsbD]
  have hout : b.setWidth 16 <<< 8 <<< 8 = 0#16 := by
    rw [← BitVec.shiftLeft_add, BitVec.shiftLeft_eq_zero (by decide)]
  rw [crc16Byte, crc16Bit_iterate_xor, hbits, hout, BitVec.xor_zero]

/-- Settles O26: byte by byte, `crc16Byte_eq_foldl`. -/
theorem crc16IsBitSerialMsbFirst : Obligations.Crc16IsBitSerialMsbFirst := by
  intro bs
  simp only [crc16, List.foldl_flatMap, ← crc16Byte_eq_foldl]

/-! ### Changed bytes -/

/-- A fold whose every step can be undone, told the item, can be undone. -/
theorem foldl_injective {α β : Type} {f : α → β → α} (hacc : ∀ b, Function.Injective (f · b)) (bs : List β) :
    Function.Injective (bs.foldl f) := by
  induction bs with
  | nil => exact Function.injective_id
  | cons b bs ih => exact ih.comp (hacc b)

/-- Replacing an item changes such a fold exactly when it changes the item, where a step also tells the item. -/
theorem foldl_set_eq_iff {α β : Type} {f : α → β → α} (hacc : ∀ b, Function.Injective (f · b))
    (hitem : ∀ a, Function.Injective (f a)) (a : α) {bs : List β} {i : Nat} (h : i < bs.length) (b : β) :
    (bs.set i b).foldl f a = bs.foldl f a ↔ b = bs[i] := by
  induction bs generalizing a i with
  | nil => exact absurd h (Nat.not_lt_zero i)
  | cons c bs ih =>
    cases i with
    | zero => exact (foldl_injective hacc bs).eq_iff.trans (hitem a).eq_iff
    | succ i => exact ih (f a c) (Nat.lt_of_succ_lt_succ h)

/-- The bit shifted out comes back as the lowest bit, since the polynomial is odd and a shift clears that bit. -/
theorem getLsbD_crc16Bit_zero (r : Half) : (crc16Bit r).getLsbD 0 = r.getLsbD 15 := by
  rw [crc16Bit]
  split
  · next h => simpa using h.symm
  · next h => simpa using h

/-- One shift of the register loses nothing: the lowest bit tells whether the polynomial was XORed in, so the shifted
register, and with the bit shifted out the whole register, can be told from the outcome. -/
theorem crc16Bit_injective : Function.Injective crc16Bit := by
  intro r r' h
  have htop : r.getLsbD 15 = r'.getLsbD 15 := by
    rw [← getLsbD_crc16Bit_zero, ← getLsbD_crc16Bit_zero, h]
  have hlow : r <<< 1 = r' <<< 1 := by
    rw [crc16Bit, crc16Bit, htop] at h
    split at h
    · exact (BitVec.xor_left_inj _).mp h
    · exact h
  apply BitVec.eq_of_getLsbD_eq
  intro i hi
  obtain rfl | hup : i = 15 ∨ i + 1 < 16 := by omega
  · exact htop
  · simpa [hi, hup] using congrArg (·.getLsbD (i + 1)) hlow

/-- The running register after a byte tells the register before it. -/
theorem crc16Byte_injective_register (b : Byte) : Function.Injective (crc16Byte · b) := fun _ _ h =>
  (BitVec.xor_left_inj _).mp (crc16Bit_injective.iterate 8 h)

/-- The running register after a byte tells the byte. -/
theorem crc16Byte_injective_byte (r : Half) : Function.Injective (crc16Byte r) := fun b b' h => by
  have hwide : b.setWidth 16 <<< 8 = b'.setWidth 16 <<< 8 :=
    (BitVec.xor_right_inj _).mp (crc16Bit_injective.iterate 8 h)
  apply BitVec.eq_of_getLsbD_eq
  intro i hi
  have hup : i + 8 < 16 := by omega
  have hin : i < 16 := by omega
  simpa [hup, hin] using congrArg (·.getLsbD (i + 8)) hwide

/-- Replacing a byte changes the CRC exactly when it changes the byte (R155). -/
theorem crc16_set_eq_iff {bs : List Byte} {i : Nat} (h : i < bs.length) (b : Byte) :
    crc16 (bs.set i b) = crc16 bs ↔ b = bs[i] :=
  foldl_set_eq_iff crc16Byte_injective_register crc16Byte_injective_byte _ h b

/-- Settles O28: a flipped bit is a changed byte. -/
theorem crc16DetectsSingleBitFlips : Obligations.Crc16DetectsSingleBitFlips :=
  ⟨fun _ _ _ h hk => (crc16_set_eq_iff h _).not.mpr (flipBit_ne _ hk), by decide +kernel⟩

/-! ### The CRC after its own message -/

/-- While the bits shifted out are 0 the polynomial is never XORed in. -/
theorem crc16Bit_iterate_of_clear (r : Half) (n : Nat) (h : ∀ k < n, r.getMsbD k = false) :
    crc16Bit^[n] r = r <<< n := by
  induction n with
  | zero => simp
  | succ n ih =>
    have htop : (r <<< n).getLsbD 15 = false := by
      rw [getLsbD_last_eq_getMsbD_zero, BitVec.getMsbD_shiftLeft, Nat.zero_add]
      exact h n (Nat.lt_succ_self n)
    rw [Function.iterate_succ_apply', ih fun k hk => h k (Nat.lt_succ_of_lt hk), crc16Bit, htop, BitVec.shiftLeft_add]
    rfl

/-- The register's own high byte cancels against it, and leaves its low byte shifted up. -/
theorem crc16Byte_high_byte (r : Half) :
    crc16Byte r (r.extractLsb' 8 8) = (r.extractLsb' 0 8).setWidth 16 <<< 8 := by
  have hlow : r ^^^ (r.extractLsb' 8 8).setWidth 16 <<< 8 = (r.extractLsb' 0 8).setWidth 16 := by
    apply BitVec.eq_of_getLsbD_eq
    intro i hi
    by_cases h8 : i < 8
    · simp [hi, h8]
    · have hhigh : i - 8 < 8 := by omega
      have hsplit : 8 + (i - 8) = i := by omega
      simp [hi, h8, hhigh, hsplit]
  rw [crc16Byte, hlow]
  exact crc16Bit_iterate_of_clear _ 8 fun k hk => by simp [BitVec.getMsbD_setWidth, hk]

/-- A byte into the register that holds it in its upper half clears the register. -/
theorem crc16Byte_shifted_self (b : Byte) : crc16Byte (b.setWidth 16 <<< 8) b = 0#16 := by
  rw [crc16Byte, BitVec.xor_self]
  rfl

/-- Settles O29: the register's bytes cancel one after the other; stored low byte first they leave 0 after the empty
message, whose CRC is the same in both orders, and not after the one-byte message 0x31. -/
theorem crc16StoredOrderHasNoResidue : Obligations.Crc16StoredOrderHasNoResidue := by
  constructor
  · intro bs
    rw [crc16, List.foldl_append]
    exact (congrArg (crc16Byte · _) (crc16Byte_high_byte _)).trans (crc16Byte_shifted_self _)
  · rintro ⟨v, hv⟩
    exact absurd ((hv []).trans (hv [0x31#8]).symm) (by decide +kernel)

end Sys2Proof.Machine

/-! The meanings of CRC16_CALC (R153) and CRC16_CHECK (R154). -/

namespace Sys2Proof.Machine

open Sys2Proof.Safety

/-- Settles O10: the record CRC16_CALC writes in range, and R114's row for it out of range. -/
theorem crc16CalcResult : Obligations.Crc16CalcResult :=
  ⟨rfl, fun _ _ hwf hp hfits => runCommand_ok hwf hp hfits,
    fun _ _ hwf hp hout => exec_outOfRange hwf hp (Nat.not_le.mpr hout), fun _ _ => rfl⟩

/-- Settles O12: the record CRC16_CHECK writes in range, and R114's row for it out of range. -/
theorem crc16CheckResult : Obligations.Crc16CheckResult :=
  ⟨rfl, fun _ _ hwf hp hfits => runCommand_ok hwf hp hfits,
    fun _ _ hwf hp hout => exec_outOfRange hwf hp (Nat.not_le.mpr hout)⟩

end Sys2Proof.Machine

/-! BCD_DECODE (R170 to R179): its two ends, its flags, the timestamp generator and the calendar. -/

namespace Sys2Proof.Machine

open Sys2Proof.Safety

/-! ### The end of BCD_DECODE, field by field (R178) -/

section
variable (s : State) (f : BcdFields) (bd bdoy bt : Bool)

@[simp] theorem State.finishBcd_bcdOk : (s.finishBcd f bd bdoy bt).status.bcdOk = !(bd || bdoy || bt) := by
  unfold State.finishBcd; split <;> rfl

@[simp] theorem State.finishBcd_bcdBadDigit : (s.finishBcd f bd bdoy bt).status.bcdBadDigit = bd := by
  unfold State.finishBcd; split <;> rfl

@[simp] theorem State.finishBcd_bcdBadDoy : (s.finishBcd f bd bdoy bt).status.bcdBadDoy = bdoy := by
  unfold State.finishBcd; split <;> rfl

@[simp] theorem State.finishBcd_bcdBadTime : (s.finishBcd f bd bdoy bt).status.bcdBadTime = bt := by
  unfold State.finishBcd; split <;> rfl

@[simp] theorem State.finishBcd_code :
    (s.finishBcd f bd bdoy bt).status.code = if bd || bdoy || bt then .invalidBcd else .ok := by
  unfold State.finishBcd; split <;> rfl

/-- CODE is 3 exactly when a check failed. -/
theorem State.finishBcd_code_eq_invalidBcd_iff :
    (s.finishBcd f bd bdoy bt).status.code = .invalidBcd ↔ (bd || bdoy || bt) = true := by
  rw [State.finishBcd_code]
  split <;> simp [*]

@[simp] theorem State.finishBcd_ts :
    (s.finishBcd f bd bdoy bt).ts = if bd || bdoy || bt then s.ts else timestampOf s.cfg f := by
  unfold State.finishBcd; split <;> rfl

end

/-- BCD_DECODE in range ends with the flags of the bytes it reads (R178). -/
theorem exec_bcdDecode_inRange {s : State} {p : Pending} {ns : List Nat} (hwf : s.cfg.wf = true)
    (hp : s.pending = some p) (hr : p.addr.toNat + 7 ≤ s.cfg.bufSize)
    (hns : nibbles (s.bytes p.addr.toNat 7) = ns) :
    exec .bcdDecode s = .next (s.finishBcd (bcdFields ns) (badDigit ns)
      (!badDigit ns && badDoy s.cfg (bcdFields ns)) (!badDigit ns && badTime s.cfg (bcdFields ns))) := by
  subst hns
  exact runCommand_inRange hwf hp (decide_eq_true hr)

/-- Settles O13: `finishBcd` has these two ends. -/
theorem bcdDecodeOutcome : Obligations.BcdDecodeOutcome := by
  intro s p hwf hp hr ns f bd bdoy bt
  rw [exec_bcdDecode_inRange hwf hp hr rfl]
  obtain ⟨hbad, hend⟩ | ⟨hgood, hend⟩ := s.finishBcd_cases f bd bdoy bt
  · exact ⟨fun _ => congrArg _ hend, fun hgood => absurd (hbad.symm.trans hgood) (by decide)⟩
  · exact ⟨fun hbad => absurd (hbad.symm.trans hgood) (by decide), fun _ => congrArg _ hend⟩

/-! ### The invariant of the BCD flags (R177, R178, R213) -/

/-- A completion that is not CODE 3 leaves the flags' agreement as it was. -/
theorem bcdFlagsOk_complete {st : Status} {c : CompletionCode} (h : bcdFlagsOk st = true) (hc : c ≠ .invalidBcd) :
    bcdFlagsOk (st.complete c) = true := by
  simp only [bcdFlagsOk, Bool.and_eq_true] at h
  obtain ⟨hflags, _⟩ := h
  simpa [bcdFlagsOk, hc] using hflags

/-- The end of BCD_DECODE makes the flags agree, since a bad digit suppresses the other two checks (R177). -/
theorem bcdFlagsOk_finishBcd (s : State) (f : BcdFields) (bd doy time : Bool) :
    bcdFlagsOk (s.finishBcd f bd (!bd && doy) (!bd && time)).status = true := by
  simp only [bcdFlagsOk, State.finishBcd_bcdOk, State.finishBcd_bcdBadDigit, State.finishBcd_bcdBadDoy,
    State.finishBcd_bcdBadTime, State.finishBcd_code]
  revert bd doy time
  decide

/-- Every command leaves the BCD flags agreeing: BCD_DECODE writes them all, and no other command ends with CODE 3. -/
theorem exec_keeps_bcdFlagsOk {i : Instr} {s t : State} (he : exec i s = .next t) (h : bcdFlagsOk s.status = true) :
    bcdFlagsOk t.status = true := by
  cases i
  case bcdDecode =>
    obtain ⟨_, p, _, ⟨_, rfl⟩ | ⟨_, _, f, bd, _, _, _, _, _, rfl, rfl, rfl⟩⟩ := execBcdDecode_next he
    · exact bcdFlagsOk_complete h (by decide)
    · exact bcdFlagsOk_finishBcd s f bd _ _
  all_goals
    obtain ⟨_, p, _, ⟨_, rfl⟩ | ⟨_, rfl⟩⟩ := runCommand_next he <;> exact bcdFlagsOk_complete h (by decide)

/-- Settles O51: a completion writes CODE with the flags, no host write touches either, and a reset clears both. -/
theorem bcdFlagInvariantKept : Obligations.BcdFlagInvariantKept := by
  intro s t h hstep
  cases step_effect hstep with
  | quiet => exact h
  | hostWrite _ _ hu => cases hu <;> exact h
  | illegal => exact bcdFlagsOk_complete h (by decide)
  | command _ _ he => exact exec_keeps_bcdFlagsOk he h
  | reset => rfl

/-! ### The digit check (R173) -/

/-- The bytes of a range, as members of their list (R10). -/
theorem State.mem_bytes_iff (s : State) (a n : Nat) (b : Byte) :
    b ∈ s.bytes a n ↔ ∃ j, j < n ∧ s.byteAt (a + j) = b := by
  simp [List.mem_iff_getElem]

/-- The digit check fails exactly when some byte of the range has a nibble above 9 (R173). -/
theorem badDigit_bytes_iff (s : State) (a n : Nat) :
    badDigit (nibbles (s.bytes a n)) = true ↔
      ∃ j, j < n ∧ (9 < (s.byteAt (a + j)).toNat % 16 ∨ 9 < (s.byteAt (a + j)).toNat / 16) := by
  simp only [badDigit_iff, State.mem_bytes_iff]
  constructor
  · rintro ⟨_, ⟨j, hj, rfl⟩, h⟩
    exact ⟨j, hj, h⟩
  · rintro ⟨j, hj, h⟩
    exact ⟨_, ⟨j, hj, rfl⟩, h⟩

/-- Settles O15: a bad digit turns the other two checks off, and it is the nibble check itself. -/
theorem bcdBadDigitRejected : Obligations.BcdBadDigitRejected := by
  intro s p hwf hp hr
  have hexec := exec_bcdDecode_inRange hwf hp hr rfl
  have hdigit := badDigit_bytes_iff s p.addr.toNat 7
  refine ⟨fun hbad => ?_, fun hgood => ?_⟩
  · have hbd := hdigit.mpr hbad
    exact ⟨_, hexec, by simp [hbd], by simp [hbd], by simp [hbd], by simp [hbd], by simp [hbd], by simp [hbd]⟩
  · refine ⟨_, hexec, ?_⟩
    rw [State.finishBcd_bcdBadDigit, ← Bool.not_eq_true, hdigit]
    rintro ⟨j, hj, h⟩
    have := hgood j hj
    omega

/-! ### The generator of R179 -/

/-- The nibbles of a byte built from two decimal digits are the digits (R171). -/
theorem nibbles_bcdByte_cons {hi lo : Nat} (hhi : hi ≤ 9) (hlo : lo ≤ 9) (bs : List Byte) :
    nibbles (bcdByte hi lo :: bs) = lo :: hi :: nibbles bs := by
  have hbyte : (bcdByte hi lo).toNat = 16 * hi + lo := toNat_ofNat_of_lt (by omega)
  have hlow : (16 * hi + lo) % 16 = lo := by omega
  have hhigh : (16 * hi + lo) / 16 = hi := by omega
  simp only [nibbles, List.flatMap_cons, lowNibble_toNat, highNibble_toNat, hbyte, hlow, hhigh, List.cons_append,
    List.nil_append]

section
variable {yy doy hour minute second ms : Nat}

/-- The generator's nibbles are the 14 decimal digits, least significant first (R171, R179). -/
theorem nibbles_timestampBytes (h : digitsFit yy doy hour minute second ms) :
    nibbles (timestampBytes yy doy hour minute second ms) =
      [ms % 10, ms / 10 % 10, ms / 100, second % 10, second / 10, minute % 10, minute / 10, hour % 10, hour / 10,
        doy % 10, doy / 10 % 10, doy / 100, yy % 10, yy / 10] := by
  obtain ⟨hyy, hdoy, hhour, hminute, hsecond, hms⟩ := h
  simp only [timestampBytes]
  iterate 7 rw [nibbles_bcdByte_cons (by omega) (by omega)]
  rfl

/-- The generator makes no bad digit (R173, R179). -/
theorem badDigit_timestampBytes (h : digitsFit yy doy hour minute second ms) :
    badDigit (nibbles (timestampBytes yy doy hour minute second ms)) = false := by
  rw [nibbles_timestampBytes h]
  obtain ⟨hyy, hdoy, hhour, hminute, hsecond, hms⟩ := h
  simp only [badDigit, List.any_cons, List.any_nil, Bool.or_eq_false_iff, decide_eq_false_iff_not, and_true]
  omega

/-- Decoding the generator's bytes gives back the fields they were built from (R172, R179). -/
theorem bcdFields_timestampBytes (h : digitsFit yy doy hour minute second ms) :
    bcdFields (nibbles (timestampBytes yy doy hour minute second ms)) = ⟨ms, second, minute, hour, doy, yy⟩ := by
  rw [nibbles_timestampBytes h]
  simp only [bcdFields, nibble, List.getD_cons_succ, List.getD_cons_zero, BcdFields.mk.injEq]
  omega

/-- BCD_DECODE in range of the generator's bytes: no bad digit, and the range checks of the fields (R177 to R179). -/
theorem exec_bcdDecode_timestampBytes {s : State} {p : Pending} (hwf : s.cfg.wf = true) (hp : s.pending = some p)
    (hr : p.addr.toNat + 7 ≤ s.cfg.bufSize) (hfit : digitsFit yy doy hour minute second ms)
    (hbytes : s.bytes p.addr.toNat 7 = timestampBytes yy doy hour minute second ms) :
    exec .bcdDecode s = .next (s.finishBcd ⟨ms, second, minute, hour, doy, yy⟩ false
      (badDoy s.cfg ⟨ms, second, minute, hour, doy, yy⟩) (badTime s.cfg ⟨ms, second, minute, hour, doy, yy⟩)) := by
  rw [exec_bcdDecode_inRange hwf hp hr rfl, hbytes, badDigit_timestampBytes hfit, bcdFields_timestampBytes hfit]
  rfl

end

/-- The day check, with LEAP as R175 states it (R177). -/
theorem badDoy_iff_gregorianLeap (cfg : Config) (f : BcdFields) :
    badDoy cfg f = true ↔ f.doy < 1 ∨ (if gregorianLeap (cfg.yearBase + f.yy) then 366 else 365) < f.doy := by
  rw [badDoy_iff, if_congr (leapYear_iff (fullYear cfg f.yy)) rfl rfl, fullYear]

/-- Settles O16: without a bad digit the flags are the two range checks. -/
theorem bcdRangeChecksRejected : Obligations.BcdRangeChecksRejected := by
  intro s p yy doy hour minute second ms hwf hp hr hfit hbytes
  refine ⟨_, exec_bcdDecode_timestampBytes hwf hp hr hfit hbytes, ?_, ?_, ?_, ?_, ?_⟩
  · exact State.finishBcd_bcdBadDigit ..
  · rw [State.finishBcd_bcdBadDoy, badDoy_iff_gregorianLeap]
  · rw [State.finishBcd_bcdBadTime, badTime_iff]
  · rw [State.finishBcd_code_eq_invalidBcd_iff, State.finishBcd_bcdBadDoy, State.finishBcd_bcdBadTime, Bool.false_or,
      Bool.or_eq_true]
  · intro hcode
    rw [State.finishBcd_ts, if_pos ((State.finishBcd_code_eq_invalidBcd_iff ..).mp hcode)]

/-- Fields of the layout's numbers of digits fit their registers (R33 to R36, R171). -/
theorem timestampOf_toNat {cfg : Config} {f : BcdFields} (hwf : cfg.wf = true)
    (h : digitsFit f.yy f.doy f.hour f.minute f.second f.ms) :
    (timestampOf cfg f).yy.toNat = f.yy ∧ (timestampOf cfg f).doy.toNat = f.doy
      ∧ (timestampOf cfg f).hour.toNat = f.hour ∧ (timestampOf cfg f).minute.toNat = f.minute
      ∧ (timestampOf cfg f).second.toNat = f.second ∧ (timestampOf cfg f).ms.toNat = f.ms
      ∧ (timestampOf cfg f).year.toNat = cfg.yearBase + f.yy := by
  obtain ⟨hyy, hdoy, hhour, hminute, hsecond, hms⟩ := h
  exact ⟨toNat_ofNat_of_lt (by omega), toNat_ofNat_of_lt (by omega), toNat_ofNat_of_lt (by omega),
    toNat_ofNat_of_lt (by omega), toNat_ofNat_of_lt (by omega), toNat_ofNat_of_lt (by omega),
    toNat_ofNat_of_lt (fullYear_lt hwf hyy)⟩

/-- Settles O14: both range checks pass, and `timestampOf_toNat` reads the fields back. -/
theorem bcdRoundTrip : Obligations.BcdRoundTrip := by
  intro s p yy doy hour minute second ms hwf hp hr hfit hbytes hdoy1 hdoy htime
  have hbdoy : badDoy s.cfg ⟨ms, second, minute, hour, doy, yy⟩ = false := by
    rw [← Bool.not_eq_true, badDoy_iff_gregorianLeap]
    dsimp only
    omega
  have hbt : badTime s.cfg ⟨ms, second, minute, hour, doy, yy⟩ = false := by
    rw [← Bool.not_eq_true, badTime_iff]
    rintro ⟨hcheck, hout⟩
    have := htime hcheck
    dsimp only at hout
    omega
  have hexec := exec_bcdDecode_timestampBytes hwf hp hr hfit hbytes
  rw [hbdoy, hbt] at hexec
  obtain ⟨hyy, hd, hh, hm, hs, hms, hyear⟩ := timestampOf_toNat (f := ⟨ms, second, minute, hour, doy, yy⟩) hwf hfit
  exact ⟨_, hexec, rfl, rfl, hyy, hd, hh, hm, hs, hms, hyear, leapYear_iff _⟩

/-! ### The calendar (R176) -/

/-- A month adds its length to the days before it. -/
theorem daysBefore_succ (leap : Bool) {m : Nat} (hm : 1 ≤ m) :
    daysBefore leap (m + 1) = daysBefore leap m + monthLength leap m := by
  cases m with
  | zero => exact absurd hm (by decide)
  | succ m => rfl

/-- A later month has no fewer days before it. -/
theorem daysBefore_mono (leap : Bool) : Monotone (daysBefore leap) :=
  monotone_nat_of_le_succ fun m => by
    cases m with
    | zero => exact le_rfl
    | succ m => exact Nat.le_add_right _ _

/-- A day of an earlier month comes before every day of a later one. -/
theorem dayOfYear_lt_of_month_lt {leap : Bool} {m m' d d' : Nat} (hm : 1 ≤ m) (hd : d ≤ monthLength leap m)
    (hd' : 1 ≤ d') (h : m < m') : daysBefore leap m + d < daysBefore leap m' + d' := by
  have hnext := daysBefore_succ leap hm
  have hle : daysBefore leap (m + 1) ≤ daysBefore leap m' := daysBefore_mono leap h
  omega

/-- Settles O17: `calendar_of_doy`, and two months would order their days. -/
theorem calendarMatchesMonthLengths : Obligations.CalendarMatchesMonthLengths := by
  intro leap doy h1 h2
  obtain ⟨hm1, hm12, hd1, hd, hsum⟩ := calendar_of_doy leap h1 h2
  refine ⟨hm1, hm12, hd1, hd, hsum, fun m d hm1' _ hd1' hd' hsum' => ?_⟩
  obtain hlt | rfl | hgt := Nat.lt_trichotomy m (monthOf leap doy)
  · have := dayOfYear_lt_of_month_lt hm1' hd' hd1 hlt
    omega
  · exact ⟨rfl, by omega⟩
  · have := dayOfYear_lt_of_month_lt hm1 hd hd1' hgt
    omega

end Sys2Proof.Machine

/-! The meaning of PB_DECODE (R200, R201). -/

namespace Sys2Proof.Machine

open Sys2Proof.Safety

/-- A byte after `n` bytes from `a` were written to `t` through `f`: `bytes` reads them all from the state before the
write, so the two ranges may overlap (R201). -/
theorem State.byteAt_writeBytes_map_bytes (s : State) (f : Byte → Byte) (a n t x : Nat) :
    (s.writeBytes t ((s.bytes a n).map f)).byteAt x =
      if t ≤ x ∧ x < t + n then f (s.byteAt (a + (x - t))) else s.byteAt x := by
  simp [State.byteAt_writeBytes]

/-- Settles O18: the record PB_DECODE writes in range, read byte by byte, and R114's row for it out of range. -/
theorem pbDecodeBytes : Obligations.PbDecodeBytes :=
  ⟨rfl,
    fun s _ hwf hp ha hdst =>
      ⟨_, runCommand_ok hwf hp ⟨ha, hdst⟩, fun x => s.byteAt_writeBytes_map_bytes stripParity _ _ _ x, rfl⟩,
    fun _ _ hwf hp hout => exec_outOfRange hwf hp fun ⟨ha, hdst⟩ => by omega⟩

end Sys2Proof.Machine

/-! Every step answers (R212, R219, R223), and the interrupt level over completion, acceptance and acknowledge (R215). -/

namespace Sys2Proof.Machine

/-- On a reset's turn a step is the reset event (R74). -/
theorem step_of_reset {s : State} (hwf : s.cfg.wf = true) (ha : s.nextAgent = some .reset) :
    step s = .next s.dropTurn.resetEvent := by
  simp [step, runTurn, hwf, ha]

/-- When nobody moves next a step keeps all state (R223). -/
theorem step_of_nobody {s : State} (hwf : s.cfg.wf = true) (ha : s.nextAgent = none) : step s = .next s := by
  simp [step, runTurn, hwf, ha]

/-- Settles O6, one case an agent: only the engine's turn has a command's errors to answer for, and
`engineTurn_answers` says it does. -/
theorem stepAlwaysAnswersNext : Obligations.StepAlwaysAnswersNext := by
  intro s hwf
  cases ha : s.nextAgent with
  | none => exact ⟨_, step_of_nobody hwf ha⟩
  | some agent =>
    cases agent with
    | host => exact ⟨_, step_of_host hwf ha⟩
    | engine =>
      obtain ⟨t, ht⟩ := engineTurn_answers (s := s.dropTurn) hwf
      exact ⟨t, (step_of_engine hwf ha).trans ht⟩
    | reset => exact ⟨_, step_of_reset hwf ha⟩

/-- With DONE set irq is IE (R39). -/
theorem State.irq_of_done {s : State} (h : s.status.done = true) : s.irq = s.ie := by
  rw [State.irq, h, Bool.and_true]

/-- With DONE clear irq is 0, whatever IE (R39). -/
theorem State.irq_of_not_done {s : State} (h : s.status.done = false) : s.irq = false := by
  rw [State.irq, h, Bool.and_false]

/-- While idle, a strobed write to CMD accepts its strobed data as a command (R110). -/
theorem State.hostWrite_cmd (s : State) {a : WinAddr} {strb : Strobe} (ht : target a = .reg .cmd) (hstrb : strb ≠ 0#4)
    (hidle : s.status.busy = false) (d : Word) : s.hostWrite a d strb = s.accept (d &&& laneMask strb) := by
  simp [State.hostWrite, hstrb, hidle, ht, State.writeReg]

/-- A write to STATUS clears the flags its strobed data names, BUSY or not (R23, R116). -/
theorem State.hostWrite_status (s : State) {a : WinAddr} (ht : target a = .reg .status) (d : Word) (strb : Strobe) :
    s.hostWrite a d strb = { s with status := s.status.clear (d &&& laneMask strb) } :=
  s.hostWrite_reg ht (by decide) (fun _ => by rw [ht]; rfl) d strb

/-- Settles O44: a completion sets DONE and leaves IE alone, an acceptance and an acknowledge clear DONE. -/
theorem interruptFollowsCompletion : Obligations.InterruptFollowsCompletion := by
  refine ⟨fun s t p hp ht => ?_, fun s a d strb hlo hhi hstrb hidle => ?_, fun s a d strb hlo hhi hstrb hd => ?_⟩
  · obtain ⟨_, _, hdone, _, hie, _⟩ := engineTurn_frame hp ht
    rw [State.irq_of_done hdone, hie]
  · rw [s.hostWrite_cmd (target_reg .cmd hlo hhi) hstrb hidle]
    exact State.irq_of_not_done (s.status.accept_done)
  · rw [s.hostWrite_status (target_reg .status hlo hhi), Status.clear_strobed]
    exact State.irq_of_not_done (by simp [hstrb, hd])

end Sys2Proof.Machine

/-! The reset event and the state after power-on (R240 to R242), a hang and an ended run (R123, R257), and which event
wrote which buffer byte (R37, R62, R201, R241). -/

namespace Sys2Proof.Machine

open Sys2Proof.Safety

/-! ### Reset -/

/-- After power-on every register but ID reads 0 (R20, R240). -/
theorem State.readReg_reset {r : Reg} (hr : r ≠ .id) : State.reset.readReg r = 0#32 := by
  cases r
  case id => contradiction
  all_goals decide

/-- After a reset event every register reads as after power-on: what the event keeps no register shows (R20, R240). -/
theorem State.readReg_resetEvent (s : State) (r : Reg) : s.resetEvent.readReg r = State.reset.readReg r := by
  cases r <;> rfl

/-- Settles O46: the step is the reset event. -/
theorem resetEventValues : Obligations.ResetEventValues := by
  intro s ts hwf hturns
  refine ⟨_, step_of_reset hwf (State.nextAgent_of_cons hturns), fun r hr => ?_, rfl, rfl, rfl,
    s.dropTurn.byteAt_resetEvent, rfl, rfl, ?_, rfl⟩
  · rw [State.readReg_resetEvent, State.readReg_reset hr]
  · rw [State.resetEvent_turns, State.dropTurn_turns, hturns, List.tail_cons]

/-- Settles O47: nobody has a turn in the state after power-on, and its invariants are closed facts. -/
theorem resetStateValues : Obligations.ResetStateValues :=
  ⟨fun _ hr => State.readReg_reset hr, rfl, rfl, rfl, step_of_nobody rfl rfl, rfl, rfl, rfl, rfl, rfl⟩

/-! ### Hangs and ended runs -/

/-- With the schedule exhausted, nobody moves next once the run has ended (R123). -/
theorem State.nextAgent_of_runEnded {s : State} (h : s.turns = []) (hended : runEnded s = true) :
    s.nextAgent = none := by
  obtain ⟨hprog, hp⟩ : s.program = [] ∧ s.pending = none := by simpa [runEnded] using hended
  simp [State.nextAgent, h, hprog, hp]

/-- Settles O59: the hanging poll is the host's turn, which keeps the state, and an ended run is nobody's. -/
theorem hangsAndEndedRunsStay : Obligations.HangsAndEndedRunsStay := by
  intro s hwf hturns
  refine ⟨fun off mask val rest hp hprog hne => ?_, fun hended => ?_⟩
  · have hhost : s.nextAgent = some .host := State.nextAgent_of_program hturns hp (by simp [hprog])
    obtain ⟨_, _, hpoll, _⟩ := hostTurnMakesOneAccess s rest
    obtain ⟨_, hunsatisfied⟩ := hpoll off mask val hprog
    rw [step_of_host hwf hhost, State.dropTurn_of_nil hturns, hunsatisfied hne]
  · exact step_of_nobody hwf (State.nextAgent_of_runEnded hturns hended)

/-! ### The writers of a buffer byte -/

/-- A window write changes only a byte of its word, present and in a strobed lane (R62). -/
theorem State.byteAt_writeWindow_ne {s : State} {b : Nat} {d : Word} {strb : Strobe} {x : Nat}
    (hne : ({ s with buf := writeWindow s.cfg.bufSize s.buf b d strb } : State).byteAt x ≠ s.byteAt x) :
    b ≤ x ∧ x < b + 4 ∧ strb.getLsbD (x - b) = true ∧ x < s.cfg.bufSize := by
  by_contra hout
  rw [State.byteAt_writeWindow, if_neg hout] at hne
  exact hne rfl

/-- A command changes only bytes of PB_DECODE's destination, and only with CODE 0 (R118, R201). -/
theorem exec_byteAt_ne {i : Instr} {s t : State} {x : Nat} (h : exec i s = .next t) (hne : t.byteAt x ≠ s.byteAt x) :
    i = .pbDecode ∧ t.status.code = .ok
      ∧ ∃ p, s.pending = some p ∧ p.dst.toNat ≤ x ∧ x < p.dst.toNat + p.len.toNat := by
  by_cases hi : i = .pbDecode
  · subst hi
    obtain ⟨_, p, hp, ⟨_, rfl⟩ | ⟨_, rfl⟩⟩ := runCommand_next h
    · have hin : p.dst.toNat ≤ x ∧ x < p.dst.toNat + p.len.toNat := by
        by_contra hout
        rw [State.byteAt_complete, State.byteAt_writeBytes_map_bytes, if_neg hout] at hne
        exact hne rfl
      exact ⟨rfl, rfl, p, hp, hin⟩
    · exact absurd rfl hne
  · obtain hbuf | ⟨_, hpb, _⟩ := exec_buf h
    · obtain ⟨_, _, _, _, _, _, hdraws, _⟩ := exec_frame h
      rw [State.byteAt, State.byteAt, hbuf, hdraws] at hne
      exact absurd rfl hne
    · exact absurd hpb hi

/-- Settles O54: of the events of `StepEffect` that are no reset, only an idle window write and a command write the
buffer. -/
theorem bufferBytesHaveOnlyTheirWriters : Obligations.BufferBytesHaveOnlyTheirWriters := by
  intro s t x h hreset hne
  cases step_effect h with
  | quiet | illegal => exact absurd rfl hne
  | @hostWrite off d strb u _ hnext hu =>
    cases hu with
    | window b hstrb hidle hoff =>
      obtain ⟨hlo, hhi, hlane, hsize⟩ := State.byteAt_writeWindow_ne (s := s.dropTurn) hne
      have hword : b = x / 4 * 4 := by omega
      have hmod : x - b = x % 4 := by omega
      exact .inl ⟨hidle, hsize, d, strb, ⟨off, hnext, hstrb, by omega, by omega⟩, hmod ▸ hlane⟩
    | _ => exact absurd rfl hne
  | command i hr he =>
    obtain ⟨rfl, hcode, hp⟩ := exec_byteAt_ne he hne
    exact .inr ⟨hr, hcode, hp⟩
  | reset ha => exact absurd ha hreset

end Sys2Proof.Machine

/-! The words that are no command, each with the reason the decoder names (R93, R94). -/

namespace Sys2Proof

/-- A command word is rejected for its reserved bits exactly when RSVD is not 0, whatever its OPCODE (R94). -/
theorem decode_eq_reservedBitsSet_iff (c : Word) : decode c = .error .reservedBitsSet ↔ c.toNat / 256 ≠ 0 := by
  have hzero : rsvdOf c = 0#24 ↔ c.toNat / 256 = 0 := by
    rw [← BitVec.toNat_inj, rsvdOf_toNat, BitVec.toNat_ofNat, Nat.zero_mod]
  rw [Ne, ← hzero]
  constructor
  · intro h
    unfold decode at h
    split_ifs at h with hrsvd
    · exact hrsvd
    · cases h
  · intro hrsvd
    rw [decode, if_pos hrsvd]

/-- A command word is rejected for its OPCODE exactly when RSVD is 0 and OPCODE is 0 or at least 7 (R94). -/
theorem decode_eq_unknownOpcode_iff (c : Word) :
    decode c = .error .unknownOpcode ↔ c.toNat / 256 = 0 ∧ (c.toNat % 256 = 0 ∨ 7 ≤ c.toNat % 256) := by
  have hlegal := exists_decode_eq_ok_iff c
  have hreserved := decode_eq_reservedBitsSet_iff c
  cases hd : decode c with
  | ok i =>
    have := hlegal.mp ⟨i, hd⟩
    simp only [reduceCtorEq, false_iff]
    omega
  | error e =>
    have hillegal : ¬ ∃ i, decode c = .ok i := by simp [hd]
    rw [hlegal] at hillegal
    rw [hd] at hreserved
    cases e with
    | reservedBitsSet =>
      have := hreserved.mp rfl
      simp only [Except.error.injEq, reduceCtorEq, false_iff]
      omega
    | unknownOpcode =>
      have : ¬ c.toNat / 256 ≠ 0 := fun hne => by simpa using hreserved.mpr hne
      simp only [true_iff]
      omega

/-- Settles O1: the six words are match words, and the four others have a reserved bit set or an OPCODE off the map. -/
theorem decodeReadsPrintedWords : Obligations.DecodeReadsPrintedWords := by
  unfold Obligations.DecodeReadsPrintedWords
  simp only [decode_eq_ok_iff_toNat, decode_eq_unknownOpcode_iff, decode_eq_reservedBitsSet_iff]
  decide

end Sys2Proof
